-- ==== Sys2Proof/Word.lean ====
section
/-! DEFINITION. The word types of the frame codec block (00_scope.md R6): a byte, and the widths that
registers and operands have. Byte order is not decided here but in Decode.lean (20_memory.md R40). -/

namespace Sys2Proof

/-- An 8-bit value: the unit of every buffer access (20_memory.md R45). -/
abbrev Byte := BitVec 8

/-- A 16-bit register or operand (a wire counter, a nonce). -/
abbrev Half := BitVec 16

/-- A 24-bit register or operand (a network identifier, a join nonce). -/
abbrev Tri := BitVec 24

/-- A 32-bit register or operand (an address, a counter, a time in milliseconds, R9). -/
abbrev Word := BitVec 32

/-- An EUI in host/display order, read as the 64-bit number whose most significant byte is the byte a
person reads first: the number of 20_memory.md R41. -/
abbrev Eui := BitVec 64

/-- A 16-byte key of the Secure Element (41_security_engine.md R121), its first byte most significant. -/
abbrev Key := BitVec 128

end Sys2Proof
end

