-- ==== Sys2Proof/Config.lean ====
section
/-! DEFINITION. What is fixed for one machine: the names the spec gives to small sets of values, the
parameters of 00_scope.md R5 with the constraints of 70_reset_and_hazards.md R324, the calls the block
makes on its three collaborators (41_security_engine.md R121, 60_exceptions.md R296 and R297), and the
free values those collaborators answer with. -/

namespace Sys2Proof

/-! ### Names of values -/

/-- `R.LW_VARIANT` (10_state.md R16). -/
inductive Variant where
  | v10 | v11
  deriving DecidableEq, Repr

/-- `R.DEVICE_CLASS` (10_state.md R16); value 3 is illegal and is never held. -/
inductive DeviceClass where
  | a | b | c
  deriving DecidableEq, Repr

/-- `R.RX_SLOT` (10_state.md R21); value 3 is reserved, no command writes it and a model need not
represent it (93_implementation_defined.md U21). -/
inductive RxSlot where
  | win1 | win2 | classC | pingSlot | mcSlot | beacon | none
  deriving DecidableEq, Repr

/-- `B.STATE` (10_state.md R25): the nine states of the document; values 9 to 15 are never held (U22). -/
inductive BeaconState where
  | acquisition | locked | timeout | beaconMissed | reacquisition | idle | guard | rx | lost
  deriving DecidableEq, Repr

/-- The key slots of the Secure Element (10_state.md R23). `h` is the handle of a multicast entry. -/
inductive KeySlot where
  | appKey | nwkKey | jSIntKey | jSEncKey | fNwkSIntKey | sNwkSIntKey | nwkSEncKey | appSKey
  | mcRootKey | mcKeKey | genAppKey | zeroKey
  | mcKey (h : BitVec 2) | mcAppSKey (h : BitVec 2) | mcNwkSKey (h : BitVec 2)
  deriving DecidableEq, Repr

/-- The two kinds `Region.validate` tells apart (60_exceptions.md R297). -/
inductive ParamKind where
  | datarate | txPower
  deriving DecidableEq, Repr

/-! ### Parameters -/

/-- `FOPTS_MAX` (R5, fixed). -/
abbrev foptsMax : Nat := 15
/-- `ACK_RETRY_CAP` (R5, fixed). -/
abbrev ackRetryCap : Nat := 8
/-- `PORT_MIN` (R5, fixed). -/
abbrev portMin : Nat := 1
/-- `PORT_MAX` (R5, fixed). -/
abbrev portMax : Nat := 223
/-- `PORT_COMPLIANCE` (R5, fixed). -/
abbrev portCompliance : Nat := 224
/-- `CFLIST_LEN` (R5, fixed). -/
abbrev cflistLen : Nat := 16

/-- Which function `PingRand` is. 45_classb_beacon.md R226 takes it as a parameter of the model and gives a default
content (log entry 16). -/
inductive PingSource where
  /-- The default content: AES-128 under the all-zero key. -/
  | aes
  /-- Any other total function of two 32-bit values: the free value `Config.pingRand`. -/
  | other
  deriving DecidableEq, Repr

/-- What the three calls of the Secure Element compute. 00_scope.md R5 and 41_security_engine.md R121 take them as argument
functions of the model, over a map from slots to keys, and give a default content (log entry 16). -/
inductive SeContent where
  /-- The default content: AES-128 and AES-CMAC. -/
  | aes
  /-- Any other three functions of the key in the slot and the call's arguments: the free values `Config.seEcb`,
  `Config.seCmac` and `Config.seDerive`. -/
  | other
  deriving DecidableEq, Repr

/-- The parameters of R5 that the document does not fix, the functions of the Secure Element (41_security_engine.md R121)
and the function `PingRand` (45_classb_beacon.md R226), each an argument of the model: they are plain data that a state carries and no step changes (assumption log entry 2). The
last two are the answers of the Region's pure queries `default_datarate` and `default_tx_power` (R297, R310). -/
structure Params where
  phyMax : Nat
  maxFcntGap : Nat
  receiveDelay1Def : Word
  receiveDelay2Def : Word
  joinAcceptDelay1Def : Word
  joinAcceptDelay2Def : Word
  ackTimeout : Word
  aggDcycleDef : Half
  beaconInterval : Nat
  beaconReserved : Nat
  beaconGuard : Nat
  slotLen : Nat
  beaconWindowSlots : Nat
  bcnSymtoDef : Half
  bcnSymtoMax : Half
  pingSymtoDef : Half
  pingSymtoMax : Half
  symtoFactor : Nat
  maxBeaconLess : Nat
  seContent : SeContent
  pingRand : PingSource
  regionDefaultDatarate : Byte
  regionDefaultTxPower : Byte
  deriving DecidableEq, Repr

/-- The constraints between parameters that the rules need (70_reset_and_hazards.md R324 (a) to (h); the
last conjunct is 10_state.md R30 (d) for the default). R324 (d) and (e) hold by construction. -/
abbrev Params.Ok (p : Params) : Prop :=
  p.maxFcntGap < 65536
  ∧ p.beaconReserved + (p.beaconWindowSlots - 1) * p.slotLen + p.beaconGuard < p.beaconInterval
  ∧ p.bcnSymtoDef.toNat ≤ p.bcnSymtoMax.toNat
  ∧ p.pingSymtoDef.toNat ≤ p.pingSymtoMax.toNat
  ∧ 1 ≤ p.symtoFactor
  ∧ p.phyMax ≤ 255
  ∧ p.maxBeaconLess < 2 ^ 31
  ∧ 1 ≤ p.aggDcycleDef.toNat

/-- A free value: what `Region.default_datarate()` returns. -/
opaque Config.regionDefaultDatarate : Byte
/-- A free value: what `Region.default_tx_power()` returns. -/
opaque Config.regionDefaultTxPower : Byte

/-- A free value: a function `PingRand` other than the default content (45_classb_beacon.md R226). -/
opaque Config.pingRand : Word → Word → Half

/-- A free value: an `SE.ecb` other than the default content, under a key; its 16 bytes as one number
(41_security_engine.md R123). -/
opaque Config.seEcb : Key → List Byte → Key
/-- A free value: an `SE.cmac` other than the default content, under a key, with its prefix and its data (R122). -/
opaque Config.seCmac : Key → Option (List Byte) → List Byte → Word
/-- A free value: the key that an `SE.derive_store` other than the default content stores, under a root key (R124). -/
opaque Config.seDerive : Key → List Byte → Key

/-- The default parameter values of R5 (PRESUMED: the spec marks them as general knowledge; assumption
log entry 2). -/
def Params.default : Params where
  phyMax := 255
  maxFcntGap := 16384
  receiveDelay1Def := 1000
  receiveDelay2Def := 2000
  joinAcceptDelay1Def := 5000
  joinAcceptDelay2Def := 6000
  ackTimeout := 2000
  aggDcycleDef := 1
  beaconInterval := 128000
  beaconReserved := 2120
  beaconGuard := 3000
  slotLen := 30
  beaconWindowSlots := 4096
  bcnSymtoDef := 8
  bcnSymtoMax := 255
  pingSymtoDef := 8
  pingSymtoMax := 30
  symtoFactor := 2
  maxBeaconLess := 7200000
  seContent := .aes
  pingRand := .aes
  regionDefaultDatarate := Config.regionDefaultDatarate
  regionDefaultTxPower := Config.regionDefaultTxPower

/-! ### Collaborator calls and their answers -/

/-- One call of the block on a collaborator, with its arguments. The block's calls are kept in order in
the state's trace (20_memory.md R55, 60_exceptions.md R296). -/
inductive Call where
  /-- `SE.ecb(block, slot)` (R123). -/
  | seEcb (block : List Byte) (slot : KeySlot)
  /-- `SE.cmac(prefix, data, slot)` (R122). -/
  | seCmac (pre : Option (List Byte)) (data : List Byte) (slot : KeySlot)
  /-- `SE.derive_store(block, rootSlot, targetSlot)` (R124). -/
  | seDeriveStore (block : List Byte) (root target : KeySlot)
  | regionInitDefaults
  | regionDefaultDatarate
  | regionDefaultTxPower
  | regionValidate (kind : ParamKind) (value : Byte)
  | regionNextChannel (now : Word) (dr : Byte) (joined : Bool) (aggWait : Word)
  | regionTxDone (channel : Byte) (joined : Bool) (now toa : Word)
  | regionAdrNext (adrAckCnt : Word) (dr pw : Byte)
  | regionNextLowerDr (dr : Byte)
  | regionRestoreDefaults
  | regionApplyCflist (cflist : List Byte)
  | regionRxWindow (slot : RxSlot) (dr : Byte)
  /-- `Region.rx_config(slot, arg)`; for `MC_SLOT` the argument stands for the triple of the entry's
  index, frequency and datarate (R297), whose last two are `mcPhy`. -/
  | regionRxConfig (slot : RxSlot) (arg : Byte) (mcPhy : Option (Word × Byte))
  | regionBeaconWindow (symto : Half)
  | regionPingWindow (symto : Half)
  | radioReceive (t : Word)
  | radioSleep
  | radioStandby
  deriving DecidableEq, Repr

/-! The free answers. Each is a function of the whole trace of calls made so far, the call being answered
last: a collaborator is any total function with a state of its own (R297, R121), and what it answers is
then fixed by what it has been asked. Nothing in Lean can evaluate these constants (log entry 3). -/

/-- Whether a call on the SE port fails; failure is an outcome allowed on every call (R121, U7). -/
opaque Config.seFails : List Call → Bool
/-- `Region.validate`. -/
opaque Config.regionValidate : List Call → Bool
/-- `Region.next_channel`: `ok(channel, wait)` or `no_free_channel`. -/
opaque Config.regionNextChannel : List Call → Option (Byte × Word)
/-- `Region.adr_next`: datarate, power, ack-request bit. -/
opaque Config.regionAdrNext : List Call → Byte × Byte × Bool
/-- `Region.next_lower_dr`. -/
opaque Config.regionNextLowerDr : List Call → Byte
/-- `Region.rx_window`, `Region.beacon_window` and `Region.ping_window`: a signed offset and a timeout,
both in milliseconds. -/
opaque Config.regionWindow : List Call → Word × Word
/-- `Region.rx_config`: accepted or refused. -/
opaque Config.regionRxConfig : List Call → Bool

end Sys2Proof
end

