-- ==== Sys2Proof/Syntax.lean ====
section
/-! DEFINITION. The rows of spec/opcode_table.json as one inductive type: the 49 commands
(30_encoding.md R61), the event source's port action `EVT.POST` (46_system.md R254), and the 16 wire
layouts (R62 to R70). Beside it: the ports bytes arrive on, and the HOST's direct accesses (10_state.md
R10), which are no rows of the table. -/

namespace Sys2Proof

/-! ### The fields of the frames -/

/-- The fields of a join-request (30_encoding.md R64). -/
structure JoinRequest where
  mhdr : Byte
  joinEui : Eui
  devEui : Eui
  devNonce : Half
  mic : Word
  deriving DecidableEq, Repr

/-- The fields of a rejoin-request of type 0 or 2 (R65). -/
structure Rejoin02 where
  mhdr : Byte
  rejoinType : Byte
  netId : Tri
  devEui : Eui
  rjCount : Half
  mic : Word
  deriving DecidableEq, Repr

/-- The fields of a rejoin-request of type 1 (R66); byte 1 is always 1. -/
structure Rejoin1 where
  mhdr : Byte
  joinEui : Eui
  devEui : Eui
  rjCount : Half
  mic : Word
  deriving DecidableEq, Repr

/-- The fields of a plaintext join-accept (R67). -/
structure JoinAccept where
  mhdr : Byte
  joinNonce : Tri
  netId : Tri
  devAddr : Word
  dlSettings : Byte
  rxDelay : Byte
  cflist : Option (List Byte)
  mic : Word
  deriving DecidableEq, Repr

/-- The fields of a data frame (R69); a payload needs a port. -/
structure DataFrame where
  mhdr : Byte
  addr : Word
  fctrl : Byte
  fcnt : Half
  fopts : List Byte
  fport : Option Byte
  payload : List Byte
  mic : Word
  deriving DecidableEq, Repr

/-- The stage of `SEC.DERIVE_MC` with that stage's operands (41_security_engine.md R137). -/
inductive McStage where
  | root
  | ke
  | key (h : BitVec 2) (encKey : BitVec 128)
  | session (h : BitVec 2) (mcAddr : Word)
  deriving DecidableEq, Repr

/-! ### The rows of the table -/

/-- One constructor for each row of spec/opcode_table.json. The operands of a command have the widths its
rule states, so every operand is present and in range; the byte forms that are not are the business of
the decoder (R75). -/
inductive Instr where
  -- system (46_system.md)
  | sysInit
  | mibGet (id : Byte)
  | mibSet (id : Byte) (value : Word)
  | sysSetClass (cls : BitVec 2) (now : Word)
  | evtDrain
  | mcAdd (h : BitVec 2) (addr freq : Word) (datarate : Byte) (periodicity : BitVec 3) (now : Word)
  | mcRemove (h : BitVec 2) (now : Word)
  -- frame codec (40_frame_codec.md)
  | serJoinreq (cap : Byte)
  | serRejoin (cap : Byte)
  | serJoinacc (cap : Byte)
  | serData (cap : Byte)
  | parseJoinreq
  | parseRejoin
  | parseJoinacc
  | parseData
  | frameClassify
  | frameMatchAddr
  | framePlaceCmds (cmds : List Byte) (maxPld : Byte)
  | portCheck (port : Byte) (compliance : Bool)
  -- security engine (41_security_engine.md)
  | secUplink (counter : Word) (txDatarate txChannel cap : Byte)
  | secDownlink (addrKind : BitVec 3) (address : Word) (counterKind : BitVec 3) (fCntCandidate : Word)
  | secJoinreq (cap : Byte)
  | secRejoin (cap : Byte)
  | secJoinacc (reqType : Byte) (joinEui : Eui) (devNonce : Half)
  | secDeriveSession (variant : Variant) (joinNonce netId : Tri) (joinEui : Eui) (devNonce : Half)
  | secDeriveMc (stage : McStage)
  | secDeriveLifetime (devEui : Eui)
  -- counters (42_counters.md)
  | fcntNextUp
  | fcntReconstruct (counterKind : BitVec 3) (wire : Half)
  | fcntReset (scope : BitVec 2) (h : BitVec 2)
  -- duty cycle, ADR, acknowledgment retries (43_dutycycle_adr.md)
  | dcTxUpdate (now toa : Word) (channel : Byte)
  | dcSchedule (now : Word) (allowDelayed : Bool)
  | adrNext
  | adrUplinkEnd (classADownlink : Bool)
  | ackStart (retries : Byte)
  | ackTimeout
  | ackReceived
  -- RX windows (44_rx_windows.md)
  | rxwTxDone (now : Word) (confirmed : Bool)
  | rxwOpen (win2 : Bool)
  | rxwRxDone (outcome : BitVec 2)
  -- class B and C scheduler (45_classb_beacon.md)
  | bcnAcquire (now : Word)
  | bcnRxBeacon (now tBeacon beaconTimeS : Word)
  | bcnRxTimeout (now : Word)
  | bcnTimer (now : Word)
  | bcnHalt
  | pingSetInfo (periodicity : BitVec 3) (now : Word)
  | pingTimer (now : Word)
  | mcslotTimer (now : Word)
  | slotRxDone (outcome : BitVec 2)
  -- the event source's port action (46_system.md R254); `clock` is the time at which it acts
  | evtPost (bit : BitVec 4) (clock : Word)
  -- wire layouts (30_encoding.md R62 to R70)
  | mhdr (mtype : BitVec 3) (rfu : BitVec 3) (major : BitVec 2)
  | mtypeJoinRequest (rfu : BitVec 3)
  | mtypeJoinAccept (rfu : BitVec 3)
  | mtypeUnconfirmedDataUp (rfu : BitVec 3)
  | mtypeUnconfirmedDataDown (rfu : BitVec 3)
  | mtypeConfirmedDataUp (rfu : BitVec 3)
  | mtypeConfirmedDataDown (rfu : BitVec 3)
  | mtypeRejoinRequest (rfu : BitVec 3)
  | mtypeProprietary (rfu : BitVec 3)
  | frameJoinRequest (f : JoinRequest)
  | frameRejoin02 (f : Rejoin02)
  | frameRejoin1 (f : Rejoin1)
  | frameJoinAccept (f : JoinAccept)
  | dlsettings (optNeg : BitVec 1) (rx1DrOffset : BitVec 3) (rx2DataRate : BitVec 4)
  | frameData (f : DataFrame)
  | fctrl (adr adrAckReq ack classB : BitVec 1) (foptsLen : BitVec 4)
  deriving DecidableEq, Repr

/-! ### Where bytes arrive -/

/-- The `MType` values (30_encoding.md R63). -/
inductive MType where
  | joinRequest | joinAccept | unconfirmedDataUp | unconfirmedDataDown
  | confirmedDataUp | confirmedDataDown | rejoinRequest | proprietary
  deriving DecidableEq, Repr

/-- The wire layout a HOST store is made in. -/
inductive Layout where
  | mhdr | mtype (k : MType) | joinRequest | rejoin02 | rejoin1 | joinAccept | dlsettings | data | fctrl
  deriving DecidableEq, Repr

/-- The ports of the block: the command port of R2 and R60, the event port of R254, and the HOST's direct
access to the frame descriptor and the buffers in a wire layout (R10, R44; log entry 5). -/
inductive Port where
  | command | event | wire (l : Layout)
  deriving DecidableEq, Repr

/-- The buffers, each an address space of its own (20_memory.md R44). -/
inductive Buf where
  | tx | rx | pld | fopts | cflist
  deriving DecidableEq, Repr

/-- A direct write of the HOST: to a register of the frame descriptor, to a buffer, to a length register
(10_state.md R10, R11, R44), or to a key slot at the Secure Element (R23: "HOST, directly at the SE"). -/
inductive HostAccess where
  | mhdr (v : Byte)
  | joinEui (v : Eui)
  | devEui (v : Eui)
  | devNonce (v : Half)
  | rejoinType (v : Byte)
  | rjCount (v : Half)
  | netId (v : Tri)
  | joinNonce (v : Tri)
  | devAddr (v : Word)
  | dlSettings (v : Byte)
  | rxDelay (v : Byte)
  | cflistPresent (v : Bool)
  | fctrl (v : Byte)
  | fcnt (v : Half)
  | fportPresent (v : Bool)
  | fport (v : Byte)
  | pldLen (v : Byte)
  | mic (v : Word)
  | txLen (v : Byte)
  | rxLen (v : Byte)
  | buffer (b : Buf) (off : Nat) (bytes : List Byte)
  | key (slot : KeySlot) (k : Key)
  deriving DecidableEq, Repr

/-- One thing an agent outside the block does at one of its ports. -/
inductive PortItem where
  | bytes (p : Port) (bs : List Byte)
  | host (a : HostAccess)
  deriving DecidableEq, Repr

end Sys2Proof
end

