-- ==== Sys2Proof/WellFormed.lean ====
section
/-! DEFINITION. Which instructions have an encoding. The types of Syntax.lean already keep every operand of
a fixed width in range; what is left are the operands of variable length. -/

namespace Sys2Proof

/-- The layout R69 can hold these fields: the options length is the low nibble of `FCtrl`, a payload needs
a port, and the frame is at most 255 bytes long. -/
def DataFrame.wellFormed (f : DataFrame) : Bool :=
  f.fopts.length == f.fctrl.toNat % 16
  && (f.payload.isEmpty || f.fport.isSome)
  && decide (12 + f.fopts.length + f.fport.toList.length + f.payload.length ≤ 255)

/-- The channel list, when present, is 16 bytes long (R67). -/
def JoinAccept.wellFormed (f : JoinAccept) : Bool :=
  f.cflist.all (fun c => c.length == cflistLen)

/-- The instruction has an encoding: the MAC-command string fits its one length byte (R75), and the fields
of a frame fit its layout (R65, R67, R69). -/
def Instr.wellFormed : Instr → Bool
  | .framePlaceCmds cmds _ => decide (cmds.length ≤ 255)
  | .frameRejoin02 f => f.rejoinType == 0 || f.rejoinType == 2
  | .frameJoinAccept f => f.wellFormed
  | .frameData f => f.wellFormed
  | _ => true

end Sys2Proof
end

