-- ==== Sys2Proof/Decode.lean ====
section
/-! DEFINITION. Bytes to instructions and back: the byte order of 20_memory.md R40 and R41, the layouts of
30_encoding.md R62 to R70, the canonical byte form of a command (R75), the decoder of every port, and the
encoder written from the same tables. -/

namespace Sys2Proof

/-! ### Byte order (R7, R40, R41) -/

/-- `le<8n>(v)` of R7: `v` in `n` bytes, least significant byte first. -/
def leBytes : Nat → Nat → List Byte
  | 0, _ => []
  | n + 1, v => BitVec.ofNat 8 v :: leBytes n (v / 256)

/-- `un_le(s)` of R7. -/
def unLe : List Byte → Nat
  | [] => 0
  | b :: r => b.toNat + 256 * unLe r

/-- A byte string in index order, read off a number whose first byte is the most significant: the
host/display order of an EUI (R7), or a 16-byte block. -/
def beBytes (n v : Nat) : List Byte := (leBytes n v).reverse

/-- The number whose most significant byte is the first of the string. -/
def unBe (s : List Byte) : Nat := unLe s.reverse

/-- `le16(v)`. -/
def le16 (v : Half) : List Byte := leBytes 2 v.toNat
/-- `le24(v)`. -/
def le24 (v : Tri) : List Byte := leBytes 3 v.toNat
/-- `le32(v)`. -/
def le32 (v : Word) : List Byte := leBytes 4 v.toNat

/-- `rev(E)` of R7: the wire order of an EUI, which is the little-endian form of its number (R41). -/
def revEui (e : Eui) : List Byte := leBytes 8 e.toNat

/-- The byte at an index of a string that a length test has shown to be long enough. -/
def byteAt (s : List Byte) (i : Nat) : Byte := s.getD i 0

/-- The `n` bytes of a string from index `i` (R6: `s[i .. i+n-1]`). -/
def slice (s : List Byte) (i n : Nat) : List Byte := (s.drop i).take n

/-- A numeric field of `n` bytes at index `i` (R71): `un_le`, zero-extended into its register. -/
def numAt (s : List Byte) (i n : Nat) {w : Nat} : BitVec w := BitVec.ofNat w (unLe (slice s i n))

/-! ### Layouts: fields to bytes (R64 to R70) -/

/-- R64 without the trailer: the 19 bytes the MIC of a join-request covers (R133). -/
def JoinRequest.body (f : JoinRequest) : List Byte :=
  [f.mhdr] ++ revEui f.joinEui ++ revEui f.devEui ++ le16 f.devNonce

/-- R64: a join-request, 23 bytes. -/
def JoinRequest.bytes (f : JoinRequest) : List Byte := f.body ++ le32 f.mic

/-- R65 without the trailer. -/
def Rejoin02.body (f : Rejoin02) : List Byte :=
  [f.mhdr, f.rejoinType] ++ le24 f.netId ++ revEui f.devEui ++ le16 f.rjCount

/-- R65: a rejoin-request of type 0 or 2, 19 bytes. -/
def Rejoin02.bytes (f : Rejoin02) : List Byte := f.body ++ le32 f.mic

/-- R66 without the trailer. -/
def Rejoin1.body (f : Rejoin1) : List Byte :=
  [f.mhdr, 1] ++ revEui f.joinEui ++ revEui f.devEui ++ le16 f.rjCount

/-- R66: a rejoin-request of type 1, 24 bytes. -/
def Rejoin1.bytes (f : Rejoin1) : List Byte := f.body ++ le32 f.mic

/-- R67 without the trailer. -/
def JoinAccept.body (f : JoinAccept) : List Byte :=
  [f.mhdr] ++ le24 f.joinNonce ++ le24 f.netId ++ le32 f.devAddr ++ [f.dlSettings, f.rxDelay]
    ++ f.cflist.getD []

/-- R67: a plaintext join-accept, 17 or 33 bytes. -/
def JoinAccept.bytes (f : JoinAccept) : List Byte := f.body ++ le32 f.mic

/-- R69 without the trailer. -/
def DataFrame.body (f : DataFrame) : List Byte :=
  [f.mhdr] ++ le32 f.addr ++ [f.fctrl] ++ le16 f.fcnt ++ f.fopts ++ f.fport.toList ++ f.payload

/-- R69: a data frame, `12 + n + p + L` bytes. -/
def DataFrame.bytes (f : DataFrame) : List Byte := f.body ++ le32 f.mic

/-- The byte `MHDR` (R62): `MType` in bits 7:5, RFU in 4:2, `Major` in 1:0. -/
def mhdrByte (mtype rfu : BitVec 3) (major : BitVec 2) : Byte := mtype ++ rfu ++ major

/-- The byte `DLSettings` (R68): `OptNeg` in bit 7, `RX1DRoffset` in 6:4, `RX2DataRate` in 3:0. -/
def dlSettingsByte (optNeg : BitVec 1) (rx1 : BitVec 3) (rx2 : BitVec 4) : Byte := optNeg ++ rx1 ++ rx2

/-- The byte `FCtrl` (R70): bits 7, 6, 5, 4 and the options length in 3:0. -/
def fctrlByte (adr adrAckReq ack classB : BitVec 1) (n : BitVec 4) : Byte :=
  adr ++ adrAckReq ++ ack ++ classB ++ n

/-- The three bits of each `MType` (R63). -/
def MType.bits : MType → BitVec 3
  | .joinRequest => 0
  | .joinAccept => 1
  | .unconfirmedDataUp => 2
  | .unconfirmedDataDown => 3
  | .confirmedDataUp => 4
  | .confirmedDataDown => 5
  | .rejoinRequest => 6
  | .proprietary => 7

/-! ### Layouts: bytes to fields (R71, R72) -/

/-- The fields of a 23-byte join-request (R64, R71). -/
def JoinRequest.ofBytes (b : List Byte) : JoinRequest where
  mhdr := byteAt b 0
  joinEui := numAt b 1 8
  devEui := numAt b 9 8
  devNonce := numAt b 17 2
  mic := numAt b 19 4

/-- The fields of a 19-byte rejoin-request (R65). -/
def Rejoin02.ofBytes (b : List Byte) : Rejoin02 where
  mhdr := byteAt b 0
  rejoinType := byteAt b 1
  netId := numAt b 2 3
  devEui := numAt b 5 8
  rjCount := numAt b 13 2
  mic := numAt b 15 4

/-- The fields of a 24-byte rejoin-request (R66). -/
def Rejoin1.ofBytes (b : List Byte) : Rejoin1 where
  mhdr := byteAt b 0
  joinEui := numAt b 2 8
  devEui := numAt b 10 8
  rjCount := numAt b 18 2
  mic := numAt b 20 4

/-- The fields of a 17-byte or 33-byte join-accept (R67, R107). -/
def JoinAccept.ofBytes (b : List Byte) : JoinAccept where
  mhdr := byteAt b 0
  joinNonce := numAt b 1 3
  netId := numAt b 4 3
  devAddr := numAt b 7 4
  dlSettings := byteAt b 11
  rxDelay := byteAt b 12
  cflist := if b.length = 33 then some (slice b 13 16) else none
  mic := numAt b (b.length - 4) 4

/-- The options length a frame's `FCtrl` byte gives: its low nibble (R69, R72). -/
def foptsLen (fctrl : Byte) : Nat := fctrl.toNat % 16

/-- The bytes can be a data frame (R72): at least 12, and room for the options before the trailer. -/
def DataFrame.fits (b : List Byte) : Bool :=
  decide (12 + foptsLen (byteAt b 5) ≤ b.length)

/-- The fields of a data frame (R72, R108): whatever is left between the options and the trailer is a port
byte and the payload. -/
def DataFrame.ofBytes (b : List Byte) : DataFrame :=
  let n := foptsLen (byteAt b 5)
  let rem := b.length - 12 - n
  { mhdr := byteAt b 0
    addr := numAt b 1 4
    fctrl := byteAt b 5
    fcnt := numAt b 6 2
    fopts := slice b 8 n
    fport := if rem = 0 then none else some (byteAt b (8 + n))
    payload := slice b (9 + n) (rem - 1)
    mic := numAt b (b.length - 4) 4 }

/-! ### Decoding -/

/-- Why bytes at a port are no instruction. -/
inductive Reject where
  /-- The first byte is none of the 49 command codes (R61, R73). -/
  | illegalCommand
  /-- The byte form is too short for its command (R75). -/
  | missingOperand
  /-- An operand has non-zero bits above its width (R75). -/
  | operandRange
  /-- The bytes are not of the layout their port expects. -/
  | notALayout
  deriving DecidableEq, Repr

/-- How one operand lies in the byte form (R75): a little-endian number, or a byte string in index order. -/
inductive Operand where
  | le (n : Nat)
  | be (n : Nat)
  deriving DecidableEq, Repr

/-- The bytes an operand takes. -/
def Operand.size : Operand → Nat
  | .le n => n
  | .be n => n

/-- The number its bytes stand for. -/
def Operand.value : Operand → List Byte → Nat
  | .le _, s => unLe s
  | .be _, s => unBe s

/-- The values of an operand record, or nothing when an operand is missing (R60, R75). -/
def readOperands : List Operand → List Byte → Option (List Nat)
  | [], _ => some []
  | o :: os, s =>
    if s.length < o.size then none
    else (readOperands os (s.drop o.size)).map (o.value (s.take o.size) :: ·)

/-- An operand record of a given form: first every operand must be present (R286: `ERR_NPE` before any other
test), then every one in range (R75). Bytes after the record are not read (log entry 9). -/
def decodeRecord (form : List Operand) (s : List Byte) (build : List Nat → Option Instr) :
    Except Reject Instr :=
  match readOperands form s with
  | none => .error .missingOperand
  | some vs =>
    match build vs with
    | some i => .ok i
    | none => .error .operandRange

/-- The 1-bit operand of a command as a truth value. -/
def bit (v : Nat) : Bool := v == 1

/-- The variant operand (10_state.md R16: 0 is `V1_0`, 1 is `V1_1`). -/
def variantOf (v : Nat) : Variant := if v = 0 then .v10 else .v11

/-- `FRAME.PLACE_CMDS`: one length byte `c`, then `c` bytes, then `maxPld` (R75). -/
def decodePlaceCmds : List Byte → Except Reject Instr
  | [] => .error .missingOperand
  | c :: s =>
    if s.length < c.toNat + 1 then .error .missingOperand
    else .ok (.framePlaceCmds (s.take c.toNat) (byteAt s c.toNat))

/-- `SEC.DERIVE_MC`: the stage byte selects the operands that follow it (R137). A stage byte above 3 selects no operand
list, so no operand can be missing: it answers `ERR_PARAM` at once, whatever follows (DESIGN CHOICE, log entry 25). -/
def decodeDeriveMc : List Byte → Except Reject Instr
  | [] => .error .missingOperand
  | st :: s =>
    match st.toNat with
    | 0 => .ok (.secDeriveMc .root)
    | 1 => .ok (.secDeriveMc .ke)
    | 2 => decodeRecord [.le 1, .be 16] s fun
        | [h, k] => if h < 4 then some (.secDeriveMc (.key (BitVec.ofNat 2 h) (BitVec.ofNat 128 k))) else none
        | _ => none
    | 3 => decodeRecord [.le 1, .le 4] s fun
        | [h, a] => if h < 4 then some (.secDeriveMc (.session (BitVec.ofNat 2 h) (BitVec.ofNat 32 a))) else none
        | _ => none
    | _ => .error .operandRange

/-- The operand record of the command whose code stands before it: the table of R61 with each rule's
operand list. -/
def decodeOperands (code : Nat) (s : List Byte) : Except Reject Instr :=
  match code with
  | 0x00 => .ok .sysInit
  | 0x01 => decodeRecord [.le 1] s fun | [a] => some (.mibGet (BitVec.ofNat 8 a)) | _ => none
  | 0x02 => decodeRecord [.le 1, .le 4] s fun
      | [a, v] => some (.mibSet (BitVec.ofNat 8 a) (BitVec.ofNat 32 v)) | _ => none
  | 0x03 => decodeRecord [.le 1, .le 4] s fun
      | [c, t] => if c < 4 then some (.sysSetClass (BitVec.ofNat 2 c) (BitVec.ofNat 32 t)) else none | _ => none
  | 0x04 => .ok .evtDrain
  | 0x05 => decodeRecord [.le 1, .le 4, .le 4, .le 1, .le 1, .le 4] s fun
      | [h, a, f, d, p, t] =>
        if h < 4 ∧ p < 8 then
          some (.mcAdd (BitVec.ofNat 2 h) (BitVec.ofNat 32 a) (BitVec.ofNat 32 f) (BitVec.ofNat 8 d)
            (BitVec.ofNat 3 p) (BitVec.ofNat 32 t))
        else none
      | _ => none
  | 0x06 => decodeRecord [.le 1, .le 4] s fun
      | [h, t] => if h < 4 then some (.mcRemove (BitVec.ofNat 2 h) (BitVec.ofNat 32 t)) else none | _ => none
  | 0x10 => decodeRecord [.le 1] s fun | [c] => some (.serJoinreq (BitVec.ofNat 8 c)) | _ => none
  | 0x11 => decodeRecord [.le 1] s fun | [c] => some (.serRejoin (BitVec.ofNat 8 c)) | _ => none
  | 0x12 => decodeRecord [.le 1] s fun | [c] => some (.serJoinacc (BitVec.ofNat 8 c)) | _ => none
  | 0x13 => decodeRecord [.le 1] s fun | [c] => some (.serData (BitVec.ofNat 8 c)) | _ => none
  | 0x14 => .ok .parseJoinreq
  | 0x15 => .ok .parseRejoin
  | 0x16 => .ok .parseJoinacc
  | 0x17 => .ok .parseData
  | 0x18 => .ok .frameClassify
  | 0x19 => .ok .frameMatchAddr
  | 0x1A => decodePlaceCmds s
  | 0x1B => decodeRecord [.le 1, .le 1] s fun
      | [p, c] => if c < 2 then some (.portCheck (BitVec.ofNat 8 p) (bit c)) else none | _ => none
  | 0x20 => decodeRecord [.le 4, .le 1, .le 1, .le 1] s fun
      | [n, d, ch, c] =>
        some (.secUplink (BitVec.ofNat 32 n) (BitVec.ofNat 8 d) (BitVec.ofNat 8 ch) (BitVec.ofNat 8 c))
      | _ => none
  | 0x21 => decodeRecord [.le 1, .le 4, .le 1, .le 4] s fun
      | [k, a, ck, n] =>
        if k < 8 ∧ ck < 8 then
          some (.secDownlink (BitVec.ofNat 3 k) (BitVec.ofNat 32 a) (BitVec.ofNat 3 ck) (BitVec.ofNat 32 n))
        else none
      | _ => none
  | 0x22 => decodeRecord [.le 1] s fun | [c] => some (.secJoinreq (BitVec.ofNat 8 c)) | _ => none
  | 0x23 => decodeRecord [.le 1] s fun | [c] => some (.secRejoin (BitVec.ofNat 8 c)) | _ => none
  | 0x24 => decodeRecord [.le 1, .be 8, .le 2] s fun
      | [r, e, n] => some (.secJoinacc (BitVec.ofNat 8 r) (BitVec.ofNat 64 e) (BitVec.ofNat 16 n)) | _ => none
  | 0x25 => decodeRecord [.le 1, .le 3, .le 3, .be 8, .le 2] s fun
      | [v, j, n, e, d] =>
        if v < 2 then
          some (.secDeriveSession (variantOf v) (BitVec.ofNat 24 j) (BitVec.ofNat 24 n) (BitVec.ofNat 64 e)
            (BitVec.ofNat 16 d))
        else none
      | _ => none
  | 0x26 => decodeDeriveMc s
  | 0x27 => decodeRecord [.be 8] s fun | [e] => some (.secDeriveLifetime (BitVec.ofNat 64 e)) | _ => none
  | 0x30 => .ok .fcntNextUp
  | 0x31 => decodeRecord [.le 1, .le 2] s fun
      | [k, w] => if k < 8 then some (.fcntReconstruct (BitVec.ofNat 3 k) (BitVec.ofNat 16 w)) else none
      | _ => none
  | 0x32 => decodeRecord [.le 1, .le 1] s fun
      | [sc, h] => if sc < 4 ∧ h < 4 then some (.fcntReset (BitVec.ofNat 2 sc) (BitVec.ofNat 2 h)) else none
      | _ => none
  | 0x40 => decodeRecord [.le 4, .le 4, .le 1] s fun
      | [t, a, c] => some (.dcTxUpdate (BitVec.ofNat 32 t) (BitVec.ofNat 32 a) (BitVec.ofNat 8 c)) | _ => none
  | 0x41 => decodeRecord [.le 4, .le 1] s fun
      | [t, d] => if d < 2 then some (.dcSchedule (BitVec.ofNat 32 t) (bit d)) else none | _ => none
  | 0x42 => .ok .adrNext
  | 0x43 => decodeRecord [.le 1] s fun | [d] => if d < 2 then some (.adrUplinkEnd (bit d)) else none | _ => none
  | 0x44 => decodeRecord [.le 1] s fun | [r] => some (.ackStart (BitVec.ofNat 8 r)) | _ => none
  | 0x45 => .ok .ackTimeout
  | 0x46 => .ok .ackReceived
  | 0x50 => decodeRecord [.le 4, .le 1] s fun
      | [t, c] => if c < 2 then some (.rxwTxDone (BitVec.ofNat 32 t) (bit c)) else none | _ => none
  | 0x51 => decodeRecord [.le 1] s fun | [w] => if w < 2 then some (.rxwOpen (bit w)) else none | _ => none
  | 0x52 => decodeRecord [.le 1] s fun
      | [o] => if o < 4 then some (.rxwRxDone (BitVec.ofNat 2 o)) else none | _ => none
  | 0x60 => decodeRecord [.le 4] s fun | [t] => some (.bcnAcquire (BitVec.ofNat 32 t)) | _ => none
  | 0x61 => decodeRecord [.le 4, .le 4, .le 4] s fun
      | [t, tb, bs] => some (.bcnRxBeacon (BitVec.ofNat 32 t) (BitVec.ofNat 32 tb) (BitVec.ofNat 32 bs))
      | _ => none
  | 0x62 => decodeRecord [.le 4] s fun | [t] => some (.bcnRxTimeout (BitVec.ofNat 32 t)) | _ => none
  | 0x63 => decodeRecord [.le 4] s fun | [t] => some (.bcnTimer (BitVec.ofNat 32 t)) | _ => none
  | 0x64 => .ok .bcnHalt
  | 0x65 => decodeRecord [.le 1, .le 4] s fun
      | [p, t] => if p < 8 then some (.pingSetInfo (BitVec.ofNat 3 p) (BitVec.ofNat 32 t)) else none | _ => none
  | 0x66 => decodeRecord [.le 4] s fun | [t] => some (.pingTimer (BitVec.ofNat 32 t)) | _ => none
  | 0x67 => decodeRecord [.le 4] s fun | [t] => some (.mcslotTimer (BitVec.ofNat 32 t)) | _ => none
  | 0x68 => decodeRecord [.le 1] s fun
      | [o] => if o < 4 then some (.slotRxDone (BitVec.ofNat 2 o)) else none | _ => none
  | _ => .error .illegalCommand

/-- The command port (R60, R61, R75): the code byte, then the operand record. -/
def decodeCommand : List Byte → Except Reject Instr
  | [] => .error .illegalCommand
  | code :: s => decodeOperands code.toNat s

/-- The event port (46_system.md R254), in a byte form of the model's own (log entry 6): the bit of `R.EVT`
the action sets, then the clock, five bytes and no more. -/
def decodeEvent (s : List Byte) : Except Reject Instr :=
  match readOperands [.le 1, .le 4] s with
  | some [b, t] => if b < 16 ∧ s.length = 5 then .ok (.evtPost (BitVec.ofNat 4 b) (BitVec.ofNat 32 t)) else .error .notALayout
  | _ => .error .notALayout

/-- The instruction of an `MTYPE` row. -/
def MType.instr (k : MType) (rfu : BitVec 3) : Instr :=
  match k with
  | .joinRequest => .mtypeJoinRequest rfu
  | .joinAccept => .mtypeJoinAccept rfu
  | .unconfirmedDataUp => .mtypeUnconfirmedDataUp rfu
  | .unconfirmedDataDown => .mtypeUnconfirmedDataDown rfu
  | .confirmedDataUp => .mtypeConfirmedDataUp rfu
  | .confirmedDataDown => .mtypeConfirmedDataDown rfu
  | .rejoinRequest => .mtypeRejoinRequest rfu
  | .proprietary => .mtypeProprietary rfu

/-- A one-byte layout (R62, R63, R68, R70). -/
def decodeWireByte (l : Layout) (b : Byte) : Except Reject Instr :=
  match l with
  | .mhdr => .ok (.mhdr (b.extractLsb' 5 3) (b.extractLsb' 2 3) (b.extractLsb' 0 2))
  | .mtype k =>
    if b.extractLsb' 5 3 = k.bits ∧ b.extractLsb' 0 2 = 0 then .ok (k.instr (b.extractLsb' 2 3))
    else .error .notALayout
  | .dlsettings => .ok (.dlsettings (b.extractLsb' 7 1) (b.extractLsb' 4 3) (b.extractLsb' 0 4))
  | .fctrl =>
    .ok (.fctrl (b.extractLsb' 7 1) (b.extractLsb' 6 1) (b.extractLsb' 5 1) (b.extractLsb' 4 1)
      (b.extractLsb' 0 4))
  | _ => .error .notALayout

/-- Bytes the HOST stores in a wire layout (R62 to R70, R72). -/
def decodeWire (l : Layout) (s : List Byte) : Except Reject Instr :=
  match l with
  | .joinRequest => if s.length = 23 then .ok (.frameJoinRequest (.ofBytes s)) else .error .notALayout
  | .rejoin02 =>
    if s.length = 19 ∧ (byteAt s 1 = 0 ∨ byteAt s 1 = 2) then .ok (.frameRejoin02 (.ofBytes s))
    else .error .notALayout
  | .rejoin1 =>
    if s.length = 24 ∧ byteAt s 1 = 1 then .ok (.frameRejoin1 (.ofBytes s)) else .error .notALayout
  | .joinAccept =>
    if s.length = 17 ∨ s.length = 33 then .ok (.frameJoinAccept (.ofBytes s)) else .error .notALayout
  | .data =>
    if s.length ≤ 255 ∧ DataFrame.fits s then .ok (.frameData (.ofBytes s)) else .error .notALayout
  | l =>
    match s with
    | [b] => decodeWireByte l b
    | _ => .error .notALayout

/-- The instruction that bytes arriving at a port stand for. -/
def decode : Port → List Byte → Except Reject Instr
  | .command, s => decodeCommand s
  | .event, s => decodeEvent s
  | .wire l, s => decodeWire l s

/-! ### Encoding -/

/-- A 1-bit operand as its byte. -/
def bitByte (b : Bool) : Byte := if b then 1 else 0

/-- A variant as its byte (10_state.md R16). -/
def variantByte : Variant → Byte
  | .v10 => 0
  | .v11 => 1

/-- The bytes of an instruction at its port: the code of R61 and the operand record in the form of R75, or
the bytes of a wire layout. -/
def encode : Instr → List Byte
  | .sysInit => [0x00]
  | .mibGet id => [0x01, id]
  | .mibSet id v => [0x02, id] ++ le32 v
  | .sysSetClass c t => 0x03 :: leBytes 1 c.toNat ++ le32 t
  | .evtDrain => [0x04]
  | .mcAdd h a f d p t => 0x05 :: leBytes 1 h.toNat ++ le32 a ++ le32 f ++ [d] ++ leBytes 1 p.toNat ++ le32 t
  | .mcRemove h t => 0x06 :: leBytes 1 h.toNat ++ le32 t
  | .serJoinreq c => [0x10, c]
  | .serRejoin c => [0x11, c]
  | .serJoinacc c => [0x12, c]
  | .serData c => [0x13, c]
  | .parseJoinreq => [0x14]
  | .parseRejoin => [0x15]
  | .parseJoinacc => [0x16]
  | .parseData => [0x17]
  | .frameClassify => [0x18]
  | .frameMatchAddr => [0x19]
  | .framePlaceCmds cmds m => 0x1A :: leBytes 1 cmds.length ++ cmds ++ [m]
  | .portCheck p c => [0x1B, p, bitByte c]
  | .secUplink n d ch c => 0x20 :: le32 n ++ [d, ch, c]
  | .secDownlink k a ck n => 0x21 :: leBytes 1 k.toNat ++ le32 a ++ leBytes 1 ck.toNat ++ le32 n
  | .secJoinreq c => [0x22, c]
  | .secRejoin c => [0x23, c]
  | .secJoinacc r e n => [0x24, r] ++ beBytes 8 e.toNat ++ le16 n
  | .secDeriveSession v j n e d => [0x25, variantByte v] ++ le24 j ++ le24 n ++ beBytes 8 e.toNat ++ le16 d
  | .secDeriveMc .root => [0x26, 0]
  | .secDeriveMc .ke => [0x26, 1]
  | .secDeriveMc (.key h k) => [0x26, 2] ++ leBytes 1 h.toNat ++ beBytes 16 k.toNat
  | .secDeriveMc (.session h a) => [0x26, 3] ++ leBytes 1 h.toNat ++ le32 a
  | .secDeriveLifetime e => 0x27 :: beBytes 8 e.toNat
  | .fcntNextUp => [0x30]
  | .fcntReconstruct k w => 0x31 :: leBytes 1 k.toNat ++ le16 w
  | .fcntReset sc h => 0x32 :: leBytes 1 sc.toNat ++ leBytes 1 h.toNat
  | .dcTxUpdate t a c => 0x40 :: le32 t ++ le32 a ++ [c]
  | .dcSchedule t d => 0x41 :: le32 t ++ [bitByte d]
  | .adrNext => [0x42]
  | .adrUplinkEnd d => [0x43, bitByte d]
  | .ackStart r => [0x44, r]
  | .ackTimeout => [0x45]
  | .ackReceived => [0x46]
  | .rxwTxDone t c => 0x50 :: le32 t ++ [bitByte c]
  | .rxwOpen w => [0x51, bitByte w]
  | .rxwRxDone o => 0x52 :: leBytes 1 o.toNat
  | .bcnAcquire t => 0x60 :: le32 t
  | .bcnRxBeacon t tb bs => 0x61 :: le32 t ++ le32 tb ++ le32 bs
  | .bcnRxTimeout t => 0x62 :: le32 t
  | .bcnTimer t => 0x63 :: le32 t
  | .bcnHalt => [0x64]
  | .pingSetInfo p t => 0x65 :: leBytes 1 p.toNat ++ le32 t
  | .pingTimer t => 0x66 :: le32 t
  | .mcslotTimer t => 0x67 :: le32 t
  | .slotRxDone o => 0x68 :: leBytes 1 o.toNat
  | .evtPost b t => leBytes 1 b.toNat ++ le32 t
  | .mhdr t r m => [mhdrByte t r m]
  | .mtypeJoinRequest r => [mhdrByte MType.joinRequest.bits r 0]
  | .mtypeJoinAccept r => [mhdrByte MType.joinAccept.bits r 0]
  | .mtypeUnconfirmedDataUp r => [mhdrByte MType.unconfirmedDataUp.bits r 0]
  | .mtypeUnconfirmedDataDown r => [mhdrByte MType.unconfirmedDataDown.bits r 0]
  | .mtypeConfirmedDataUp r => [mhdrByte MType.confirmedDataUp.bits r 0]
  | .mtypeConfirmedDataDown r => [mhdrByte MType.confirmedDataDown.bits r 0]
  | .mtypeRejoinRequest r => [mhdrByte MType.rejoinRequest.bits r 0]
  | .mtypeProprietary r => [mhdrByte MType.proprietary.bits r 0]
  | .frameJoinRequest f => f.bytes
  | .frameRejoin02 f => f.bytes
  | .frameRejoin1 f => f.bytes
  | .frameJoinAccept f => f.bytes
  | .dlsettings o x y => [dlSettingsByte o x y]
  | .frameData f => f.bytes
  | .fctrl a q k p n => [fctrlByte a q k p n]

/-- The port an instruction's bytes arrive on. -/
def portOf : Instr → Port
  | .evtPost .. => .event
  | .mhdr .. => .wire .mhdr
  | .mtypeJoinRequest _ => .wire (.mtype .joinRequest)
  | .mtypeJoinAccept _ => .wire (.mtype .joinAccept)
  | .mtypeUnconfirmedDataUp _ => .wire (.mtype .unconfirmedDataUp)
  | .mtypeUnconfirmedDataDown _ => .wire (.mtype .unconfirmedDataDown)
  | .mtypeConfirmedDataUp _ => .wire (.mtype .confirmedDataUp)
  | .mtypeConfirmedDataDown _ => .wire (.mtype .confirmedDataDown)
  | .mtypeRejoinRequest _ => .wire (.mtype .rejoinRequest)
  | .mtypeProprietary _ => .wire (.mtype .proprietary)
  | .frameJoinRequest _ => .wire .joinRequest
  | .frameRejoin02 _ => .wire .rejoin02
  | .frameRejoin1 _ => .wire .rejoin1
  | .frameJoinAccept _ => .wire .joinAccept
  | .dlsettings .. => .wire .dlsettings
  | .frameData _ => .wire .data
  | .fctrl .. => .wire .fctrl
  | _ => .command

/-! ### The host's question -/

/-- The bytes of a table word on the command port: its own bytes, least significant first, and zeros for the
operand bytes the table gives no bits to. 32 zeros exceed every operand record of a command whose
variable-length string is empty. -/
def tableWordBytes (nbits w : Nat) : List Byte := leBytes ((nbits + 7) / 8) w ++ leBytes 32 0

/-- The `MType` of three bits (R63). -/
def MType.ofBits (b : BitVec 3) : MType :=
  match b.toNat with
  | 0 => .joinRequest
  | 1 => .joinAccept
  | 2 => .unconfirmedDataUp
  | 3 => .unconfirmedDataDown
  | 4 => .confirmedDataUp
  | 5 => .confirmedDataDown
  | 6 => .rejoinRequest
  | _ => .proprietary

/-- The wire port of a header byte: the row of its `MType` when `Major` is 0, else the row of the whole byte. -/
def headerPort (b : Byte) : Port :=
  .wire (if b.extractLsb' 0 2 = 0 then .mtype (MType.ofBits (b.extractLsb' 5 3)) else .mhdr)

/-- Where a word of the table arrives, and as which bytes: on the command port when its first byte is one of
the 49 codes; a one-byte word that is not stands for a header byte of a frame (log entry 1). -/
def tableItem (nbits w : Nat) : Port × List Byte :=
  match decodeCommand (tableWordBytes nbits w) with
  | .error .illegalCommand =>
    if nbits ≤ 8 then (headerPort (BitVec.ofNat 8 w), leBytes 1 w) else (.command, tableWordBytes nbits w)
  | _ => (.command, tableWordBytes nbits w)

/-- The instruction the decoder reads from a word of the opcode table. -/
def decodeTableWord (nbits w : Nat) : Option Instr :=
  match decode (tableItem nbits w).1 (tableItem nbits w).2 with
  | .ok i => some i
  | .error _ => none

end Sys2Proof
end

