-- ==== Sys2Proof/Machine/Aes.lean ====
section
/-! DEFINITION. The default content of the Secure Element's calls (41_security_engine.md R121 to R124):
AES-128 as FIPS-197 gives it and AES-CMAC as RFC 4493 gives it. The spec names both as general knowledge and
not the document's (PRESUMED, log entry 16); its anchors are the vectors V200 to V203 of 95_test_vectors.md. -/

namespace Sys2Proof.Machine

/-- The substitution table, entry 0 in the low byte. -/
def sboxTable : Nat :=
  0x16bb54b00f2d99416842e6bf0d89a18cdf2855cee9871e9b948ed9691198f8e19e1dc186b95735610ef6034866b53e708a8bbd4b1f74dde8c6b4a61c2e2578ba08ae7a65eaf4566ca94ed58d6d37c8e779e4959162acd3c25c2406490a3a32e0db0b5ede14b8ee4688902a22dc4f816073195d643d7ea7c41744975fec130ccdd2f3ff1021dab6bcf5389d928f40a351a89f3c507f02f94585334d43fbaaefd0cf584c4a39becb6a5bb1fc20ed00d153842fe329b3d63b52a05a6e1b1a2c830975b227ebe28012079a059618c323c7041531d871f1e5a534ccf73f362693fdb7c072a49cafa2d4adf04759fa7dc982ca76abd7fe2b670130c56f6bf27b777c63

/-- SubBytes of one byte. -/
def sbox (x : Nat) : Nat := (sboxTable >>> (8 * x)) % 256

/-- Multiplication by x in the field of AES. -/
def xtime (a : Nat) : Nat := if a < 128 then 2 * a else (2 * a) ^^^ 0x11b

/-- The exclusive or of two blocks. -/
def xorNats (a b : List Nat) : List Nat := List.zipWith (fun x y => x ^^^ y) a b

/-- ShiftRows: byte `i` of the result is byte `5 i mod 16` of the block. -/
def shiftRows (b : List Nat) : List Nat := (List.range 16).map fun i => b.getD (5 * i % 16) 0

/-- MixColumns, four bytes at a time. -/
def mixColumns : List Nat → List Nat
  | a :: b :: c :: d :: r =>
    let t := a ^^^ b ^^^ c ^^^ d
    (a ^^^ t ^^^ xtime (a ^^^ b)) :: (b ^^^ t ^^^ xtime (b ^^^ c)) :: (c ^^^ t ^^^ xtime (c ^^^ d))
      :: (d ^^^ t ^^^ xtime (d ^^^ a)) :: mixColumns r
  | _ => []

/-- The next round key, with the round constant `rc`. -/
def nextRoundKey (rc : Nat) (k : List Nat) : List Nat :=
  let at' := fun i => k.getD i 0
  let w0 := [at' 0 ^^^ sbox (at' 13) ^^^ rc, at' 1 ^^^ sbox (at' 14), at' 2 ^^^ sbox (at' 15),
    at' 3 ^^^ sbox (at' 12)]
  let w1 := xorNats ((k.drop 4).take 4) w0
  let w2 := xorNats ((k.drop 8).take 4) w1
  let w3 := xorNats ((k.drop 12).take 4) w2
  w0 ++ w1 ++ w2 ++ w3

/-- The rounds still to do, the last without MixColumns. -/
def aesRounds : Nat → Nat → List Nat → List Nat → List Nat
  | 0, rc, k, b => xorNats (shiftRows (b.map sbox)) (nextRoundKey rc k)
  | n + 1, rc, k, b =>
    let k' := nextRoundKey rc k
    aesRounds n (xtime rc) k' (xorNats (mixColumns (shiftRows (b.map sbox))) k')

/-- AES-128 encryption of a block under a key, both as byte values. -/
def aesNats (key block : List Nat) : List Nat := aesRounds 9 1 key (xorNats block key)

/-- The byte values of a key, first byte first. -/
def keyNats (k : Key) : List Nat := (beBytes 16 k.toNat).map (·.toNat)

/-- AES-128 encryption of a 16-byte block (R123). The result has 16 bytes whatever it is given. -/
@[irreducible] def aes128 (key : Key) (block : List Byte) : List Byte :=
  let out := aesNats (keyNats key) (block.map (·.toNat))
  (List.range 16).map fun i => BitVec.ofNat 8 (out.getD i 0)

/-- Doubling of a block as a 128-bit number, for the subkeys of RFC 4493. -/
def cmacDouble (b : List Nat) : List Nat :=
  let v := unBe (b.map (BitVec.ofNat 8))
  let d := (2 * v) % 2 ^ 128 ^^^ (if v < 2 ^ 127 then 0 else 0x87)
  (beBytes 16 d).map (·.toNat)

/-- The chain of CMAC over what is left of the message. The first argument bounds the number of blocks. -/
def cmacChain (key k1 k2 : List Nat) : Nat → List Nat → List Nat → List Nat
  | 0, x, _ => x
  | n + 1, x, m =>
    if 16 < m.length then cmacChain key k1 k2 n (aesNats key (xorNats x (m.take 16))) (m.drop 16)
    else if m.length = 16 then aesNats key (xorNats x (xorNats m k1))
    else aesNats key (xorNats x (xorNats (m ++ 0x80 :: List.replicate (15 - m.length) 0) k2))

/-- The 16-byte AES-CMAC tag of a message (R122). -/
@[irreducible] def aesCmac (key : Key) (msg : List Byte) : List Byte :=
  let k := keyNats key
  let k1 := cmacDouble (aesNats k (List.replicate 16 0))
  let out := cmacChain k k1 (cmacDouble k1) (msg.length + 1) (List.replicate 16 0) (msg.map (·.toNat))
  (List.range 16).map fun i => BitVec.ofNat 8 (out.getD i 0)

end Sys2Proof.Machine
end

