-- ==== Sys2Proof/Machine/State.lean ====
section
/-! DEFINITION. Every piece of state the spec gives the block (10_state.md R11 to R28, R31), as plain data,
the reasons a step can stop, and the state after reset. Nothing here computes: the reads and writes are in
Ops.lean and Operands.lean. -/

namespace Sys2Proof.Machine

/-! ### Why a step stops -/

/-- Why the machine stops. The spec calls each of these a fault of the HOST or of the model's arguments. -/
inductive Fault where
  /-- Raised by a command that would read a byte of `RXBUF` or `PLD` that nothing has written since reset: "a model must
  treat a command that would read such a byte [...] as a fault of the HOST, not pick a value" (20_memory.md R53,
  92_eei_decisions.md D6, 93_implementation_defined.md U30). Safe: the run says nothing more. -/
  | unwrittenByte
  /-- Raised by a HOST store at or above a buffer's capacity (20_memory.md R44, R53). Safe: there is no such
  byte. -/
  | beyondCapacity
  /-- Raised by the step when the parameters break a constraint of 70_reset_and_hazards.md R324
  (93_implementation_defined.md U42). Safe: the rules are not exact for such parameters. -/
  | parametersOutOfRange
  deriving DecidableEq, Repr

/-- Why a step is refused. -/
inductive Refusal where
  /-- Raised by an arm of `exec` whose instruction has no meaning yet. Safe: nothing is claimed of it. -/
  | notModelled (mnemonic : String)
  /-- Raised by the step for bytes at the event port or at a wire port that are of no form that port takes
  (46_system.md R254, 30_encoding.md R62 to R72): no agent can do this. Safe: nothing happens. -/
  | notALayout
  deriving DecidableEq, Repr

/-! ### Registers -/

/-- The statuses of 60_exceptions.md R270; no other value is ever produced (U24). -/
inductive Status where
  | ok | errNpe | errParam | errBufSize | errParse | errSeFailed | failMic | failFcntSmaller
  | failFcntDuplicated | failMaxGap | failAddress | failMcFormat | failAlreadyJoined | errNotJoined
  | errBusy | errDutycycleRestricted | errNoFreeChannel | infoSkippedAppData | failAckExhausted
  | errIllegalCmd
  deriving DecidableEq, Repr

/-- The frame descriptor (10_state.md R11), but for `FD.FOPTS` and `FD.CFLIST`, which are buffers (R27). -/
structure FrameDesc where
  mhdr : Byte
  joinEui : Eui
  devEui : Eui
  devNonce : Half
  rejoinType : Byte
  rjCount : Half
  netId : Tri
  joinNonce : Tri
  devAddr : Word
  dlSettings : Byte
  rxDelay : Byte
  cflistPresent : Bool
  fctrl : Byte
  fcnt : Half
  fportPresent : Bool
  fport : Byte
  pldLen : Byte
  mic : Word
  deriving DecidableEq, Repr

/-- The five buffers (10_state.md R27, 20_memory.md R44), each an address space of its own: the bytes written
since reset, by strictly rising address. What an address that is not listed reads as is `unlisted`. -/
structure Memory where
  tx : List Host.Cell
  rx : List Host.Cell
  pld : List Host.Cell
  fopts : List Host.Cell
  cflist : List Host.Cell
  deriving DecidableEq, Repr

/-- The control and status registers `R.*` of 10_state.md R16 to R21 and R26; `R.EVT` stands by itself,
because another agent writes it. -/
structure Regs where
  lwVariant : Variant
  deviceClass : DeviceClass
  joined : Bool
  netId : Tri
  devAddr : Word
  adrOn : Bool
  receiveDelay1 : Word
  receiveDelay2 : Word
  joinAcceptDelay1 : Word
  joinAcceptDelay2 : Word
  chDatarate : Byte
  chTxPower : Byte
  chDatarateDef : Byte
  chTxPowerDef : Byte
  aggDcycle : Half
  fcntUp : Word
  nFcntDown : Word
  aFcntDown : Word
  mcFcntDown : Vector Word 4
  fcntValid : BitVec 6
  lastDownFcnt : Word
  adrAckCnt : Word
  ackRetries : BitVec 4
  ackRetryCnt : BitVec 4
  aggTimeOff : Word
  lastAggTx : Word
  aggTxValid : Bool
  rxSlot : RxSlot
  mcslotOwner : BitVec 2
  deriving DecidableEq, Repr

/-- A multicast context `MC[i]` (10_state.md R22). Its keys are slots of the Secure Element and its counter
is `R.MC_FCNT_DOWN[i]`. -/
structure McEntry where
  valid : Bool
  addr : Word
  freq : Word
  datarate : Byte
  periodicity : BitVec 3
  pingNb : Byte
  pingPeriod : BitVec 13
  offset : BitVec 12
  nextN : Byte
  deriving DecidableEq, Repr

/-- A timer `T.x` (10_state.md R24): armed or not, and its due time. -/
structure Timer where
  armed : Bool
  due : Word
  deriving DecidableEq, Repr

/-- The seven timers (10_state.md R24). -/
structure Timers where
  rx1 : Timer
  rx2 : Timer
  ackTo : Timer
  dcDelay : Timer
  beacon : Timer
  ping : Timer
  mcslot : Timer
  deriving DecidableEq, Repr

/-- The names of the seven timers, in the order of the table of R24. -/
inductive TimerName where
  | rx1 | rx2 | ackTo | dcDelay | beacon | ping | mcslot
  deriving DecidableEq, Repr

/-- The beacon tracker `B.*` (10_state.md R25). -/
structure Beacon where
  run : Bool
  state : BeaconState
  acqPending : Bool
  lastRxValid : Bool
  lastRx : Word
  epoch : Word
  timeS : Word
  symto : Half
  deriving DecidableEq, Repr

/-- The unicast ping-slot registers `P.*` (10_state.md R26). -/
structure Ping where
  assigned : Bool
  periodicity : BitVec 3
  pingNb : Byte
  pingPeriod : BitVec 13
  offset : BitVec 12
  nextN : Byte
  symto : Half
  deriving DecidableEq, Repr

/-! ### Collaborators -/

/-- The key slots of the Secure Element (10_state.md R23), each with a key or empty (41_security_engine.md
R121). `ZERO_KEY` has fixed content and is not listed. The block never reads these; they are the state of
its collaborator (10_state.md R28 (c)). -/
structure KeyStore where
  appKey : Option Key
  nwkKey : Option Key
  jSIntKey : Option Key
  jSEncKey : Option Key
  fNwkSIntKey : Option Key
  sNwkSIntKey : Option Key
  nwkSEncKey : Option Key
  appSKey : Option Key
  mcRootKey : Option Key
  mcKeKey : Option Key
  genAppKey : Option Key
  mcKey : Vector (Option Key) 4
  mcAppSKey : Vector (Option Key) 4
  mcNwkSKey : Vector (Option Key) 4
  deriving DecidableEq, Repr

/-- What the collaborators will answer next, per kind of call, in order. A collaborator is any function with a
state of its own (60_exceptions.md R297, 41_security_engine.md R121), so a state may hold any answers here;
where none is left the answer is a free value of Config (log entry 3). -/
structure Answers where
  seFail : List Bool
  validate : List Bool
  nextChannel : List (Option (Byte × Word))
  adrNext : List (Byte × Byte × Bool)
  lowerDr : List Byte
  window : List (Word × Word)
  rxConfig : List Bool
  deriving DecidableEq, Repr

/-! ### The state -/

/-- The machine's state. The first two fields and the last three are the model's own: the parameters, what
the agents outside have put at the block's ports and the block has not taken yet, the calls the block has
made, the values `B.STATE` has been given (45_classb_beacon.md R216 lets a model record the transient ones),
and the collaborators' answers. -/
structure State where
  par : Params
  port : List PortItem
  status : Status
  answer : List Byte
  fd : FrameDesc
  txLen : Byte
  rxLen : Byte
  mem : Memory
  evt : BitVec 16
  r : Regs
  mc : Vector McEntry 4
  t : Timers
  b : Beacon
  p : Ping
  se : KeyStore
  trace : List Call
  path : List BeaconState
  script : Answers
  deriving DecidableEq, Repr

/-! ### Reset (10_state.md R31) -/

/-- `FD.*` after reset. -/
def FrameDesc.reset : FrameDesc where
  mhdr := 0
  joinEui := 0
  devEui := 0
  devNonce := 0
  rejoinType := 0
  rjCount := 0
  netId := 0
  joinNonce := 0
  devAddr := 0
  dlSettings := 0
  rxDelay := 0
  cflistPresent := false
  fctrl := 0
  fcnt := 0
  fportPresent := false
  fport := 0
  pldLen := 0
  mic := 0

/-- The buffers after reset: nothing written. So the bytes of `FD.FOPTS` and `FD.CFLIST` are 0 and those of the other
three have no value (10_state.md R12, R31). -/
def Memory.reset : Memory where
  tx := []
  rx := []
  pld := []
  fopts := []
  cflist := []

/-- `R.*` after reset, with the parameters' defaults. -/
def Regs.reset (par : Params) : Regs where
  lwVariant := .v10
  deviceClass := .a
  joined := false
  netId := 0
  devAddr := 0
  adrOn := false
  receiveDelay1 := par.receiveDelay1Def
  receiveDelay2 := par.receiveDelay2Def
  joinAcceptDelay1 := par.joinAcceptDelay1Def
  joinAcceptDelay2 := par.joinAcceptDelay2Def
  chDatarate := par.regionDefaultDatarate
  chTxPower := par.regionDefaultTxPower
  chDatarateDef := par.regionDefaultDatarate
  chTxPowerDef := par.regionDefaultTxPower
  aggDcycle := par.aggDcycleDef
  fcntUp := 0
  nFcntDown := 0
  aFcntDown := 0
  mcFcntDown := #v[0, 0, 0, 0]
  fcntValid := 0
  lastDownFcnt := 0
  adrAckCnt := 0
  ackRetries := 1
  ackRetryCnt := 0
  aggTimeOff := 0
  lastAggTx := 0
  aggTxValid := false
  rxSlot := .none
  mcslotOwner := 0

/-- A multicast entry that is not in use: every field zero. -/
def McEntry.reset : McEntry where
  valid := false
  addr := 0
  freq := 0
  datarate := 0
  periodicity := 0
  pingNb := 0
  pingPeriod := 0
  offset := 0
  nextN := 0

/-- The four multicast entries after reset. -/
def mcReset : Vector McEntry 4 := #v[.reset, .reset, .reset, .reset]

/-- A timer after reset. -/
def Timer.reset : Timer where
  armed := false
  due := 0

/-- The timers after reset. -/
def Timers.reset : Timers where
  rx1 := .reset
  rx2 := .reset
  ackTo := .reset
  dcDelay := .reset
  beacon := .reset
  ping := .reset
  mcslot := .reset

/-- `B.*` after reset. -/
def Beacon.reset (par : Params) : Beacon where
  run := false
  state := .acquisition
  acqPending := false
  lastRxValid := false
  lastRx := 0
  epoch := 0
  timeS := 0
  symto := par.bcnSymtoDef

/-- `P.*` after reset. -/
def Ping.reset (par : Params) : Ping where
  assigned := false
  periodicity := 0
  pingNb := 128
  pingPeriod := 32
  offset := 0
  nextN := 0
  symto := par.pingSymtoDef

/-- The key slots at power-on: the spec leaves them unspecified, the model takes them empty (DESIGN CHOICE,
unsafe, log entry 4). -/
def KeyStore.reset : KeyStore where
  appKey := none
  nwkKey := none
  jSIntKey := none
  jSEncKey := none
  fNwkSIntKey := none
  sNwkSIntKey := none
  nwkSEncKey := none
  appSKey := none
  mcRootKey := none
  mcKeKey := none
  genAppKey := none
  mcKey := #v[none, none, none, none]
  mcAppSKey := #v[none, none, none, none]
  mcNwkSKey := #v[none, none, none, none]

/-- No answer decided in advance. -/
def Answers.reset : Answers where
  seFail := []
  validate := []
  nextChannel := []
  adrNext := []
  lowerDr := []
  window := []
  rxConfig := []

/-- The machine right after power-on (10_state.md R31, 70_reset_and_hazards.md R310, R313), with the default
parameters of 00_scope.md R5. -/
def State.reset : State where
  par := .default
  port := []
  status := .ok
  answer := []
  fd := .reset
  txLen := 0
  rxLen := 0
  mem := .reset
  evt := 0
  r := .reset .default
  mc := mcReset
  t := .reset
  b := .reset .default
  p := .reset .default
  se := .reset
  trace := []
  path := []
  script := .reset

end Sys2Proof.Machine
end

