-- ==== Sys2Proof/Machine/Flags.lean ====
section
/-! DEFINITION. Status codes, the bits of the event register, the validity bits of the counter streams, the
sub-fields of `FCtrl`, and the numbers of the named values: every flag and code the rules compute. -/

namespace Sys2Proof.Machine

/-! ### Status (60_exceptions.md R270) -/

/-- The 8-bit code of a status. -/
def Status.code : Status → Byte
  | .ok => 0x00
  | .errNpe => 0x01
  | .errParam => 0x02
  | .errBufSize => 0x03
  | .errParse => 0x04
  | .errSeFailed => 0x05
  | .failMic => 0x06
  | .failFcntSmaller => 0x07
  | .failFcntDuplicated => 0x08
  | .failMaxGap => 0x09
  | .failAddress => 0x0A
  | .failMcFormat => 0x0B
  | .failAlreadyJoined => 0x0C
  | .errNotJoined => 0x0D
  | .errBusy => 0x0E
  | .errDutycycleRestricted => 0x0F
  | .errNoFreeChannel => 0x10
  | .infoSkippedAppData => 0x11
  | .failAckExhausted => 0x12
  | .errIllegalCmd => 0x13

/-- The command has completed: `OK`, and the two reports of R283. Every other status is a failure, after
which nothing of the block has changed (R285). -/
def Status.completed : Status → Bool
  | .ok => true
  | .infoSkippedAppData => true
  | .failAckExhausted => true
  | _ => false

/-! ### Codes of named values (10_state.md R16, R21, R25) -/

/-- A truth value as a register of one bit. -/
def boolBit (b : Bool) : BitVec 1 := if b then 1 else 0

/-- `R.LW_VARIANT` as a number. -/
def variantCode : Variant → BitVec 1
  | .v10 => 0
  | .v11 => 1

/-- `R.DEVICE_CLASS` as a number. -/
def classCode : DeviceClass → BitVec 2
  | .a => 0
  | .b => 1
  | .c => 2

/-- The device class a number names; 3 names none. -/
def classOf (c : BitVec 2) : Option DeviceClass :=
  if c = 0 then some .a else if c = 1 then some .b else if c = 2 then some .c else none

/-- `R.RX_SLOT` as a number (R21). -/
def slotCode : RxSlot → BitVec 3
  | .win1 => 0
  | .win2 => 1
  | .classC => 2
  | .pingSlot => 4
  | .mcSlot => 5
  | .beacon => 6
  | .none => 7

/-- `B.STATE` as a number (R25). -/
def beaconCode : BeaconState → BitVec 4
  | .acquisition => 0
  | .locked => 1
  | .timeout => 2
  | .beaconMissed => 3
  | .reacquisition => 4
  | .idle => 5
  | .guard => 6
  | .rx => 7
  | .lost => 8

/-- The identifier of a key slot (R23). -/
def slotId : KeySlot → Nat
  | .appKey => 0
  | .nwkKey => 1
  | .jSIntKey => 2
  | .jSEncKey => 3
  | .fNwkSIntKey => 4
  | .sNwkSIntKey => 5
  | .nwkSEncKey => 6
  | .appSKey => 7
  | .mcRootKey => 8
  | .mcKeKey => 9
  | .genAppKey => 10
  | .zeroKey => 11
  | .mcKey h => 16 + 3 * h.toNat
  | .mcAppSKey h => 17 + 3 * h.toNat
  | .mcNwkSKey h => 18 + 3 * h.toNat

/-! ### The event register (10_state.md R15) -/

/-- The bit a timer's expiry sets. -/
def timerBit : TimerName → BitVec 4
  | .beacon => 8
  | .mcslot => 9
  | .ping => 10
  | .rx1 => 11
  | .rx2 => 12
  | .ackTo => 13
  | .dcDelay => 14

/-- The timer whose expiry sets a bit. -/
def timerOfBit (b : BitVec 4) : Option TimerName :=
  [TimerName.beacon, .mcslot, .ping, .rx1, .rx2, .ackTo, .dcDelay].find? fun x => timerBit x == b

/-- `R.EVT` with one more flag set. -/
def setFlag (evt : BitVec 16) (b : BitVec 4) : BitVec 16 := evt ||| (1#16 <<< b.toNat)

/-- A timer whose due time the clock has reached: `(clock - DUE) mod 2^32 < 2^31` (R24). -/
def reached (clock due : Word) : Bool := decide ((clock - due).toNat < 2 ^ 31)

/-! ### The validity bits of the streams (10_state.md R18) -/

/-- The bit of stream `k` (`counterKind` 0 to 5) is set. -/
def streamValid (v : BitVec 6) (k : BitVec 3) : Bool := v.getLsbD k.toNat

/-- `R.FCNT_VALID` with the bit of stream `k` set. -/
def setValid (v : BitVec 6) (k : BitVec 3) : BitVec 6 := v ||| (1#6 <<< k.toNat)

/-- `R.FCNT_VALID` with the bit of stream `k` clear. -/
def clearValid (v : BitVec 6) (k : BitVec 3) : BitVec 6 := v &&& ~~~(1#6 <<< k.toNat)

/-- The stream of multicast entry `h`: 2 + i. -/
def mcStream (h : BitVec 2) : BitVec 3 := h.setWidth 3 + 2

/-- `R.FCNT_VALID and 0b111100`: both unicast streams have accepted nothing. -/
def clearUnicastValid (v : BitVec 6) : BitVec 6 := v &&& 0b111100

/-! ### The sub-fields of `FCtrl` (30_encoding.md R70) -/

/-- `FD.FCTRL[3:0] <- n`, the other bits kept. -/
def setFoptsLen (f : Byte) (n : Nat) : Byte := (f &&& 0xF0) ||| (BitVec.ofNat 8 n &&& 0x0F)

/-- `FD.FCTRL[7] <- adr`, `FD.FCTRL[6] <- req`, the other bits kept (43_dutycycle_adr.md R179). -/
def setAdrBits (f : Byte) (adr req : Bool) : Byte :=
  (f &&& 0x3F) ||| (if adr then 0x80 else 0) ||| (if req then 0x40 else 0)

/-- `FCtrl` bit 5, `ACK`. -/
def ackBit (f : Byte) : Bool := f.getLsbD 5

/-- `FCtrl` bit 6, `ADRACKReq`. -/
def adrAckReqBit (f : Byte) : Bool := f.getLsbD 6

end Sys2Proof.Machine
end

