-- ==== Sys2Proof/Machine/Ops.lean ====
section
/-! DEFINITION. The named operations over the state: buffer bytes, the end of a command (the block's trap
entry among them), timers, the multicast file, and the calls on the three collaborators. -/

namespace Sys2Proof.Machine

/-- How a step or a command ends. -/
abbrev Out := Host.Outcome State Fault Refusal

/-! ### Buffers (20_memory.md R44, R45, R53) -/

/-- What a byte that nothing has written since reset reads as. The arrays of the frame descriptor are registers and read
as zero (10_state.md R11, R12, R31; DEDUCED, unsafe, log entry 7); a byte of the three frame buffers has no value
(20_memory.md R53). -/
def unlisted : Buf → Option Byte
  | .tx => none
  | .rx => none
  | .pld => none
  | .fopts => some 0
  | .cflist => some 0

/-- The byte at an address, where an unlisted address reads as `d`. -/
def readCell (d : Option Byte) : List Host.Cell → Nat → Option Byte
  | [], _ => d
  | (a, v) :: m, i => if a = i then some v else readCell d m i

/-- The bytes at `n` addresses from `i`; none when one of them has no value. -/
def readCells (d : Option Byte) (m : List Host.Cell) : Nat → Nat → Option (List Byte)
  | _, 0 => some []
  | i, n + 1 =>
    match readCell d m i, readCells d m (i + 1) n with
    | some v, some r => some (v :: r)
    | _, _ => none

/-- A byte entered in the list, the addresses kept in rising order. -/
def insertCell : List Host.Cell → Nat → Byte → List Host.Cell
  | [], i, v => [(i, v)]
  | (a, w) :: m, i, v =>
    if i < a then (i, v) :: (a, w) :: m
    else if i = a then (i, v) :: m
    else (a, w) :: insertCell m i v

/-- A byte written: the value an unlisted address reads as removes the entry. -/
def writeCell (d : Option Byte) (m : List Host.Cell) (i : Nat) (v : Byte) : List Host.Cell :=
  if d = some v then m.filter fun c => c.1 ≠ i else insertCell m i v

/-- A byte string written from an address on. -/
def writeCells (d : Option Byte) (m : List Host.Cell) : Nat → List Byte → List Host.Cell
  | _, [] => m
  | i, v :: r => writeCells d (writeCell d m i v) (i + 1) r

/-- The capacity of each buffer (R44). -/
def capacity (par : Params) : Buf → Nat
  | .tx => par.phyMax
  | .rx => par.phyMax
  | .pld => par.phyMax
  | .fopts => foptsMax
  | .cflist => cflistLen

/-- One of the five buffers. -/
def Memory.buf (m : Memory) : Buf → List Host.Cell
  | .tx => m.tx
  | .rx => m.rx
  | .pld => m.pld
  | .fopts => m.fopts
  | .cflist => m.cflist

/-- `MemWrite` (00_scope.md R8). -/
def Memory.write (m : Memory) (b : Buf) (off : Nat) (s : List Byte) : Memory :=
  match b with
  | .tx => { m with tx := writeCells (unlisted .tx) m.tx off s }
  | .rx => { m with rx := writeCells (unlisted .rx) m.rx off s }
  | .pld => { m with pld := writeCells (unlisted .pld) m.pld off s }
  | .fopts => { m with fopts := writeCells (unlisted .fopts) m.fopts off s }
  | .cflist => { m with cflist := writeCells (unlisted .cflist) m.cflist off s }

/-- The canonical form of one buffer: addresses strictly rising, every one below the capacity, and no entry equal to what
an unlisted address reads as. -/
abbrev cellsWf (d : Option Byte) (cap : Nat) (m : List Host.Cell) : Prop :=
  (m.map Prod.fst).Pairwise (· < ·) ∧ ∀ c ∈ m, c.1 < cap ∧ d ≠ some c.2

/-- The canonical form of the memory. -/
abbrev Memory.wf (par : Params) (m : Memory) : Prop :=
  cellsWf (unlisted .tx) (capacity par .tx) m.tx ∧ cellsWf (unlisted .rx) (capacity par .rx) m.rx
    ∧ cellsWf (unlisted .pld) (capacity par .pld) m.pld ∧ cellsWf (unlisted .fopts) (capacity par .fopts) m.fopts
    ∧ cellsWf (unlisted .cflist) (capacity par .cflist) m.cflist

/-- The byte of a buffer at an address. -/
def State.byteOf (s : State) (b : Buf) (i : Nat) : Option Byte :=
  readCell (unlisted b) (s.mem.buf b) i

/-- `MemRead` (00_scope.md R8); none when a byte has no value (R53). -/
def State.read (s : State) (b : Buf) (off n : Nat) : Option (List Byte) :=
  readCells (unlisted b) (s.mem.buf b) off n

/-- The first `n` bytes of an array of the frame descriptor, `FD.FOPTS` or `FD.CFLIST`: each has a value (10_state.md
R12). -/
def State.fdArray (s : State) (b : Buf) (n : Nat) : List Byte :=
  (List.range n).map fun i => (s.byteOf b i).getD 0

/-- `MemWrite`. -/
def State.write (s : State) (b : Buf) (off : Nat) (bs : List Byte) : State :=
  { s with mem := s.mem.write b off bs }

/-- Goes on with what a read gave; a read of a byte without a value is a fault (R53). -/
def orFault {α : Type} (o : Option α) (k : α → Out) : Out :=
  match o with
  | none => .fault .unwrittenByte
  | some a => k a

/-! ### The end of a command -/

/-- The block's answer: `STATUS` is written and the result record given back, status first (30_encoding.md
R60, R75). -/
def State.reply (s : State) (st : Status) (res : List Byte) : State :=
  { s with status := st, answer := st.code :: res }

/-- Trap entry (60_exceptions.md R289): a failing command writes its status and changes nothing else; no
register saves anything, the mode does not change and control goes nowhere. So there is no return either
(R290): the next command is accepted as after `OK`. -/
def raise (st : Status) (s : State) : Out := .next (s.reply st [])

/-- Trap entry with a recorded value, which only `ERR_DUTYCYCLE_RESTRICTED` has (R282). -/
def raiseWith (st : Status) (info : List Byte) (s : State) : Out := .next (s.reply st info)

/-- A command completes with `OK` and its results. -/
def done (res : List Byte) (s : State) : Out := .next (s.reply .ok res)

/-- A command completes with one of the two reports of R283. -/
def report (st : Status) (res : List Byte) (s : State) : Out := .next (s.reply st res)

/-! ### Timers (10_state.md R24, 00_scope.md R8) -/

/-- One of the seven timers. -/
def Timers.get (t : Timers) : TimerName → Timer
  | .rx1 => t.rx1
  | .rx2 => t.rx2
  | .ackTo => t.ackTo
  | .dcDelay => t.dcDelay
  | .beacon => t.beacon
  | .ping => t.ping
  | .mcslot => t.mcslot

/-- One timer replaced. -/
def Timers.set (t : Timers) (x : TimerName) (v : Timer) : Timers :=
  match x with
  | .rx1 => { t with rx1 := v }
  | .rx2 => { t with rx2 := v }
  | .ackTo => { t with ackTo := v }
  | .dcDelay => { t with dcDelay := v }
  | .beacon => { t with beacon := v }
  | .ping => { t with ping := v }
  | .mcslot => { t with mcslot := v }

/-- `arm(T.x, due)`: arming an armed timer replaces its due time (60_exceptions.md R293). -/
def Timers.arm (t : Timers) (x : TimerName) (due : Word) : Timers := t.set x { armed := true, due := due }

/-- `disarm(T.x)`: `DUE` keeps its value. -/
def Timers.disarm (t : Timers) (x : TimerName) : Timers := t.set x { armed := false, due := (t.get x).due }

/-- The four class A timers disarmed (43_dutycycle_adr.md R183, 46_system.md R253). -/
def Timers.disarmClassA (t : Timers) : Timers :=
  (((t.disarm .rx1).disarm .rx2).disarm .ackTo).disarm .dcDelay

/-- The three class B timers disarmed (45_classb_beacon.md R223, R224). -/
def Timers.disarmClassB (t : Timers) : Timers := ((t.disarm .beacon).disarm .ping).disarm .mcslot

/-! ### The multicast file (10_state.md R22) -/

/-- An entry of a file of four. -/
def at4 {α : Type} (v : Vector α 4) (h : BitVec 2) : α := v[h.toNat]'(h.isLt)

/-- A file of four with one entry replaced. -/
def set4 {α : Type} (v : Vector α 4) (h : BitVec 2) (x : α) : Vector α 4 := v.set h.toNat x h.isLt

/-! ### Calls on collaborators (20_memory.md R55) -/

/-- A call is made: it is added to the trace. -/
def State.log (s : State) (c : Call) : State := { s with trace := s.trace ++ [c] }

/-- A call on the Secure Element: whether it fails, by the answer held ready or else freely (41_security_engine.md
R121, U7). -/
def seCall (c : Call) (s : State) : Bool × State :=
  let s := s.log c
  match s.script.seFail with
  | [] => (Config.seFails s.trace, s)
  | f :: rest => (f, { s with script := { s.script with seFail := rest } })

/-- The key in a slot; none for an empty slot. `ZERO_KEY` always holds the all-zero key (10_state.md R23). -/
def KeyStore.get (k : KeyStore) : KeySlot → Option Key
  | .appKey => k.appKey
  | .nwkKey => k.nwkKey
  | .jSIntKey => k.jSIntKey
  | .jSEncKey => k.jSEncKey
  | .fNwkSIntKey => k.fNwkSIntKey
  | .sNwkSIntKey => k.sNwkSIntKey
  | .nwkSEncKey => k.nwkSEncKey
  | .appSKey => k.appSKey
  | .mcRootKey => k.mcRootKey
  | .mcKeKey => k.mcKeKey
  | .genAppKey => k.genAppKey
  | .zeroKey => some 0
  | .mcKey h => at4 k.mcKey h
  | .mcAppSKey h => at4 k.mcAppSKey h
  | .mcNwkSKey h => at4 k.mcNwkSKey h

/-- A key stored in a slot; the content of `ZERO_KEY` is fixed. -/
def KeyStore.put (k : KeyStore) (slot : KeySlot) (v : Key) : KeyStore :=
  match slot with
  | .appKey => { k with appKey := some v }
  | .nwkKey => { k with nwkKey := some v }
  | .jSIntKey => { k with jSIntKey := some v }
  | .jSEncKey => { k with jSEncKey := some v }
  | .fNwkSIntKey => { k with fNwkSIntKey := some v }
  | .sNwkSIntKey => { k with sNwkSIntKey := some v }
  | .nwkSEncKey => { k with nwkSEncKey := some v }
  | .appSKey => { k with appSKey := some v }
  | .mcRootKey => { k with mcRootKey := some v }
  | .mcKeKey => { k with mcKeKey := some v }
  | .genAppKey => { k with genAppKey := some v }
  | .zeroKey => k
  | .mcKey h => { k with mcKey := set4 k.mcKey h (some v) }
  | .mcAppSKey h => { k with mcAppSKey := set4 k.mcAppSKey h (some v) }
  | .mcNwkSKey h => { k with mcNwkSKey := set4 k.mcNwkSKey h (some v) }

/-- A 16-byte block as a key. -/
def keyOf (b : List Byte) : Key := BitVec.ofNat 128 (unBe b)

/-! What the three calls compute under a key is an argument of the model (00_scope.md R5, 41_security_engine.md R121,
93_implementation_defined.md U7; log entry 16). -/

/-- The 16 bytes `SE.ecb` answers. -/
def seBlock (par : Params) (k : Key) (block : List Byte) : List Byte :=
  match par.seContent with
  | .aes => aes128 k block
  | .other => beBytes 16 (Config.seEcb k block).toNat

/-- The number `SE.cmac` answers: in the default content the first four bytes of the tag (R122). -/
def seTag (par : Params) (k : Key) (pre : Option (List Byte)) (data : List Byte) : Word :=
  match par.seContent with
  | .aes => numAt (aesCmac k (pre.getD [] ++ data)) 0 4
  | .other => Config.seCmac k pre data

/-- The key `SE.derive_store` stores. -/
def seKey (par : Params) (k : Key) (block : List Byte) : Key :=
  match par.seContent with
  | .aes => keyOf (aes128 k block)
  | .other => Config.seDerive k block

/-- `SE.ecb(block, slot)` (41_security_engine.md R123); an empty slot fails (R121). -/
def seEcb (block : List Byte) (slot : KeySlot) (s : State) : Option (List Byte) × State :=
  match seCall (.seEcb block slot) s with
  | (true, s) => (none, s)
  | (false, s) => ((s.se.get slot).map fun k => seBlock s.par k block, s)

/-- `SE.cmac(prefix, data, slot)` (R122): the tag, as a number. -/
def seCmac (pre : Option (List Byte)) (data : List Byte) (slot : KeySlot) (s : State) : Option Word × State :=
  match seCall (.seCmac pre data slot) s with
  | (true, s) => (none, s)
  | (false, s) => ((s.se.get slot).map fun k => seTag s.par k pre data, s)

/-- `SE.derive_store(block, rootSlot, targetSlot)` (R124): a failed call leaves the target as it was. -/
def seDeriveStore (block : List Byte) (root target : KeySlot) (s : State) : Option Unit × State :=
  match seCall (.seDeriveStore block root target) s with
  | (true, s) => (none, s)
  | (false, s) =>
    match s.se.get root with
    | none => (none, s)
    | some k => (some (), { s with se := s.se.put target (seKey s.par k block) })

/-- Goes on after a call on the Secure Element that may have failed. -/
def seThen {α β : Type} (r : Option α × State) (k : α → State → Option β × State) : Option β × State :=
  match r with
  | (none, s) => (none, s)
  | (some a, s) => k a s

/-- Goes on with what a call on the Secure Element gave; a failed call raises `ERR_SE_FAILED` (R121). -/
def orSeFailed {α : Type} (r : Option α × State) (k : α → State → Out) : Out :=
  match r with
  | (none, s) => raise .errSeFailed s
  | (some a, s) => k a s

/-- `Region.validate(kind, value)` (60_exceptions.md R297). -/
def regionValidate (kind : ParamKind) (value : Byte) (s : State) : Bool × State :=
  let s := s.log (.regionValidate kind value)
  match s.script.validate with
  | [] => (Config.regionValidate s.trace, s)
  | a :: rest => (a, { s with script := { s.script with validate := rest } })

/-- `Region.next_channel(now, dr, joined, aggWait)`: a channel and a wait, or no free channel. -/
def regionNextChannel (now : Word) (dr : Byte) (joined : Bool) (aggWait : Word) (s : State) :
    Option (Byte × Word) × State :=
  let s := s.log (.regionNextChannel now dr joined aggWait)
  match s.script.nextChannel with
  | [] => (Config.regionNextChannel s.trace, s)
  | a :: rest => (a, { s with script := { s.script with nextChannel := rest } })

/-- `Region.adr_next(adrAckCnt, dr, pw)`. -/
def regionAdrNext (cnt : Word) (dr pw : Byte) (s : State) : (Byte × Byte × Bool) × State :=
  let s := s.log (.regionAdrNext cnt dr pw)
  match s.script.adrNext with
  | [] => (Config.regionAdrNext s.trace, s)
  | a :: rest => (a, { s with script := { s.script with adrNext := rest } })

/-- `Region.next_lower_dr(dr)`. -/
def regionNextLowerDr (dr : Byte) (s : State) : Byte × State :=
  let s := s.log (.regionNextLowerDr dr)
  match s.script.lowerDr with
  | [] => (Config.regionNextLowerDr s.trace, s)
  | a :: rest => (a, { s with script := { s.script with lowerDr := rest } })

/-- `Region.rx_window`, `Region.beacon_window` and `Region.ping_window`, by the call that is made: a signed
offset and a timeout. -/
def regionWindow (c : Call) (s : State) : (Word × Word) × State :=
  let s := s.log c
  match s.script.window with
  | [] => (Config.regionWindow s.trace, s)
  | a :: rest => (a, { s with script := { s.script with window := rest } })

/-- `Region.rx_config(slot, arg)`: accepted or refused. -/
def regionRxConfig (slot : RxSlot) (arg : Byte) (mcPhy : Option (Word × Byte)) (s : State) : Bool × State :=
  let s := s.log (.regionRxConfig slot arg mcPhy)
  match s.script.rxConfig with
  | [] => (Config.regionRxConfig s.trace, s)
  | a :: rest => (a, { s with script := { s.script with rxConfig := rest } })

/-- A reception opened without a look at the Region's answer (70_reset_and_hazards.md R320). -/
def listen (slot : RxSlot) (arg : Byte) (mcPhy : Option (Word × Byte)) (t : Word) (s : State) : State :=
  (regionRxConfig slot arg mcPhy s).2.log (.radioReceive t)

/-! ### Small writes several commands share -/

/-- `R.RX_SLOT <- x`. -/
def State.setSlot (s : State) (x : RxSlot) : State := { s with r := { s.r with rxSlot := x } }

/-- `B.STATE <- x`, the only form of control transfer in the block (00_scope.md R8). -/
def State.enter (s : State) (x : BeaconState) : State :=
  { s with b := { s.b with state := x }, path := s.path ++ [x] }

/-- A frame laid out in `TXBUF` with its length (40_frame_codec.md R100). -/
def State.putTx (s : State) (msg : List Byte) : State :=
  { s.write .tx 0 msg with txLen := BitVec.ofNat 8 msg.length }

/-- `1 <= cap <= PHY_MAX` (R100). -/
def capOk (par : Params) (cap : Byte) : Bool := decide (1 ≤ cap.toNat) && decide (cap.toNat ≤ par.phyMax)

end Sys2Proof.Machine
end

