-- ==== Sys2Proof/Machine/Operands.lean ====
section
/-! DEFINITION. How a command's operands name state: the register identifiers of 10_state.md R16 to R26 and
R32 with the legal values of 46_system.md R252, the counter streams of 42_counters.md R160, and the key slot
of each use (41_security_engine.md R125). -/

namespace Sys2Proof.Machine

/-! ### Counter streams (R160) -/

/-- The multicast entry of stream `k`, for `k` at least 2. -/
def streamEntry (k : BitVec 3) : BitVec 2 := (k - 2).setWidth 2

/-- `last(k)`: the register of stream `k`. -/
def lastFcnt (r : Regs) (k : BitVec 3) : Word :=
  if k = 0 then r.nFcntDown else if k = 1 then r.aFcntDown else at4 r.mcFcntDown (streamEntry k)

/-- `last(k) <- v`. -/
def setLastFcnt (r : Regs) (k : BitVec 3) (v : Word) : Regs :=
  if k = 0 then { r with nFcntDown := v }
  else if k = 1 then { r with aFcntDown := v }
  else { r with mcFcntDown := set4 r.mcFcntDown (streamEntry k) v }

/-- What a stream's register reads as: 0 when nothing has been accepted (10_state.md R18, U33). -/
def readFcnt (r : Regs) (k : BitVec 3) : Word := if streamValid r.fcntValid k then lastFcnt r k else 0

/-- A multicast stream that has accepted nothing (46_system.md R256, R257, 42_counters.md R167). -/
def clearMcStream (r : Regs) (h : BitVec 2) : Regs :=
  { r with mcFcntDown := set4 r.mcFcntDown h 0, fcntValid := clearValid r.fcntValid (mcStream h) }

/-- The unicast counters of a fresh session (R167, 41_security_engine.md R135). -/
def clearUnicast (r : Regs) : Regs :=
  { r with fcntUp := 0, nFcntDown := 0, aFcntDown := 0, lastDownFcnt := 0,
           fcntValid := clearUnicastValid r.fcntValid }

/-! ### Reading a register (46_system.md R251) -/

/-- A register zero-extended to the 32-bit result. -/
def zext {w : Nat} (v : BitVec w) : Word := v.setWidth 32

/-- Field `k` of a multicast entry (10_state.md R22). -/
def mcRegister (e : McEntry) (k : Nat) : Option Word :=
  match k with
  | 0 => some (zext (boolBit e.valid))
  | 1 => some e.addr
  | 2 => some e.freq
  | 3 => some (zext e.datarate)
  | 4 => some (zext e.periodicity)
  | 5 => some (zext e.pingNb)
  | 6 => some (zext e.pingPeriod)
  | 7 => some (zext e.offset)
  | 8 => some (zext e.nextN)
  | _ => none

/-- `ARMED` (even) and `DUE` (odd) of the timers, in the order of the table of R24. -/
def timerRegister (t : Timers) (k : Nat) : Option Word :=
  let both := fun (x : Timer) => if k % 2 = 0 then zext (boolBit x.armed) else x.due
  match k / 2 with
  | 0 => some (both t.rx1)
  | 1 => some (both t.rx2)
  | 2 => some (both t.ackTo)
  | 3 => some (both t.dcDelay)
  | 4 => some (both t.beacon)
  | 5 => some (both t.ping)
  | 6 => some (both t.mcslot)
  | _ => none

/-- The register an identifier names, or nothing for an identifier of no register (R32, U25, U26). -/
def readRegister (s : State) (id : Nat) : Option Word :=
  match id with
  | 0x00 => some (zext (variantCode s.r.lwVariant))
  | 0x01 => some (zext (classCode s.r.deviceClass))
  | 0x02 => some (zext (boolBit s.r.joined))
  | 0x03 => some (zext s.r.netId)
  | 0x04 => some s.r.devAddr
  | 0x05 => some (zext (boolBit s.r.adrOn))
  | 0x10 => some s.r.receiveDelay1
  | 0x11 => some s.r.receiveDelay2
  | 0x12 => some s.r.joinAcceptDelay1
  | 0x13 => some s.r.joinAcceptDelay2
  | 0x14 => some (zext s.r.chDatarate)
  | 0x15 => some (zext s.r.chTxPower)
  | 0x16 => some (zext s.r.chDatarateDef)
  | 0x17 => some (zext s.r.chTxPowerDef)
  | 0x18 => some (zext s.r.aggDcycle)
  | 0x20 => some s.r.fcntUp
  | 0x21 => some (readFcnt s.r 0)
  | 0x22 => some (readFcnt s.r 1)
  | 0x23 => some (readFcnt s.r 2)
  | 0x24 => some (readFcnt s.r 3)
  | 0x25 => some (readFcnt s.r 4)
  | 0x26 => some (readFcnt s.r 5)
  | 0x27 => some (zext s.r.fcntValid)
  | 0x28 => some s.r.lastDownFcnt
  | 0x30 => some s.r.adrAckCnt
  | 0x31 => some (zext s.r.ackRetries)
  | 0x32 => some (zext s.r.ackRetryCnt)
  | 0x38 => some s.r.aggTimeOff
  | 0x39 => some s.r.lastAggTx
  | 0x3A => some (zext (boolBit s.r.aggTxValid))
  | 0x40 => some (zext (slotCode s.r.rxSlot))
  | 0x41 => some (zext s.status.code)
  | 0x42 => some (zext s.evt)
  | 0x80 => some (zext (boolBit s.b.run))
  | 0x81 => some (zext (beaconCode s.b.state))
  | 0x82 => some (zext (boolBit s.b.acqPending))
  | 0x83 => some (zext (boolBit s.b.lastRxValid))
  | 0x84 => some s.b.lastRx
  | 0x85 => some s.b.epoch
  | 0x86 => some s.b.timeS
  | 0x87 => some (zext s.b.symto)
  | 0x90 => some (zext (boolBit s.p.assigned))
  | 0x91 => some (zext s.p.periodicity)
  | 0x92 => some (zext s.p.pingNb)
  | 0x93 => some (zext s.p.pingPeriod)
  | 0x94 => some (zext s.p.offset)
  | 0x95 => some (zext s.p.nextN)
  | 0x96 => some (zext s.p.symto)
  | 0x97 => some (zext s.r.mcslotOwner)
  | n =>
    if 0x70 ≤ n ∧ n ≤ 0x7D then timerRegister s.t (n - 0x70)
    else if 0xA0 ≤ n ∧ n ≤ 0xDF then
      mcRegister (at4 s.mc (BitVec.ofNat 2 ((n - 0xA0) / 16))) ((n - 0xA0) % 16)
    else none

/-! ### Writing a register (46_system.md R252) -/

/-- A value that is 0 or 1, as a truth value. -/
def oneBit (v : Word) : Option Bool := if v = 0 then some false else if v = 1 then some true else none

/-- `value` put into the register `id` names, or nothing when the register is not settable or the value not
legal (the table of R252). A downlink counter also sets its stream's valid bit. -/
def writeRegister (r : Regs) (id : Nat) (v : Word) : Option Regs :=
  match id with
  | 0x00 => (oneBit v).map fun x => { r with lwVariant := if x then .v11 else .v10 }
  | 0x02 => (oneBit v).map fun x => { r with joined := x }
  | 0x03 => if v.toNat < 2 ^ 24 then some { r with netId := v.setWidth 24 } else none
  | 0x04 => some { r with devAddr := v }
  | 0x05 => (oneBit v).map fun x => { r with adrOn := x }
  | 0x10 => some { r with receiveDelay1 := v }
  | 0x11 => some { r with receiveDelay2 := v }
  | 0x12 => some { r with joinAcceptDelay1 := v }
  | 0x13 => some { r with joinAcceptDelay2 := v }
  | 0x14 => if v.toNat < 256 then some { r with chDatarate := v.setWidth 8 } else none
  | 0x15 => if v.toNat < 256 then some { r with chTxPower := v.setWidth 8 } else none
  | 0x16 => if v.toNat < 256 then some { r with chDatarateDef := v.setWidth 8 } else none
  | 0x17 => if v.toNat < 256 then some { r with chTxPowerDef := v.setWidth 8 } else none
  | 0x18 => if 1 ≤ v.toNat ∧ v.toNat < 2 ^ 16 then some { r with aggDcycle := v.setWidth 16 } else none
  | 0x20 => some { r with fcntUp := v }
  | 0x21 => some { setLastFcnt r 0 v with fcntValid := setValid r.fcntValid 0 }
  | 0x22 => some { setLastFcnt r 1 v with fcntValid := setValid r.fcntValid 1 }
  | 0x23 => some { setLastFcnt r 2 v with fcntValid := setValid r.fcntValid 2 }
  | 0x24 => some { setLastFcnt r 3 v with fcntValid := setValid r.fcntValid 3 }
  | 0x25 => some { setLastFcnt r 4 v with fcntValid := setValid r.fcntValid 4 }
  | 0x26 => some { setLastFcnt r 5 v with fcntValid := setValid r.fcntValid 5 }
  | 0x27 => if v.toNat < 64 then some { r with fcntValid := v.setWidth 6 } else none
  | 0x30 => some { r with adrAckCnt := v }
  | _ => none

/-- The registers whose value the Region must accept first. -/
def validatedKind (id : Nat) : Option ParamKind :=
  match id with
  | 0x14 => some .datarate
  | 0x15 => some .txPower
  | 0x16 => some .datarate
  | 0x17 => some .txPower
  | _ => none

/-! ### Key slots (41_security_engine.md R125) -/

/-- The payload keystream's slot of a unicast frame: port 0 is under the network key. -/
def uplinkPayloadSlot (fport : Byte) : KeySlot := if fport = 0 then .nwkSEncKey else .appSKey

/-- The integrity slot of a downlink: none is the unicast address, some `h` a multicast entry. -/
def downlinkMicSlot : Option (BitVec 2) → KeySlot
  | none => .sNwkSIntKey
  | some h => .mcNwkSKey h

/-- The payload keystream's slot of a downlink; `port0` says that a port byte is present and 0. -/
def downlinkPayloadSlot (mc : Option (BitVec 2)) (port0 : Bool) : KeySlot :=
  match mc with
  | none => if port0 then .nwkSEncKey else .appSKey
  | some h => if port0 then .mcNwkSKey h else .mcAppSKey h

/-- The multicast entry an `addrKind` of 1 to 4 names (R132). -/
def addrEntry (k : BitVec 3) : Option (BitVec 2) := if k = 0 then none else some ((k - 1).setWidth 2)

end Sys2Proof.Machine
end

