-- ==== Sys2Proof/Machine/Counters.lean ====
section
/-! DEFINITION. The counter commands (42_counters.md). Every comparison is of 32-bit unsigned values (R169). -/

namespace Sys2Proof.Machine

/-- `FCNT.NEXT_UP` (R161): the counter space does not wrap. -/
def execFcntNextUp (s : State) : Out :=
  if s.r.fcntUp.toNat = 2 ^ 32 - 1 then raise .failFcntSmaller s
  else done (le32 (s.r.fcntUp + 1)) s

/-- The candidate of R163 for a wire value that differs from the low half of the last accepted counter: the
smallest number above it whose low 16 bits are the wire value. -/
def candidate (last : Word) (wire : Half) : Nat :=
  let low := last.toNat % 65536
  if low < wire.toNat then last.toNat + (wire.toNat - low)
  else last.toNat - low + 65536 + wire.toNat

/-- `FCNT.RECONSTRUCT` (R163). -/
def execFcntReconstruct (k : BitVec 3) (wire : Half) (s : State) : Out :=
  if 5 < k.toNat then raise .errParam s
  else if 2 ≤ k.toNat ∧ (at4 s.mc (streamEntry k)).valid = false then raise .errParam s
  else if streamValid s.r.fcntValid k = false then done (leBytes 4 wire.toNat ++ [0]) s
  else
    let last := lastFcnt s.r k
    if wire.toNat = last.toNat % 65536 then raise .failFcntDuplicated s
    else if 2 ^ 32 ≤ candidate last wire then raise .failFcntSmaller s
    else if s.par.maxFcntGap < candidate last wire - last.toNat then raise .failMaxGap s
    else done (leBytes 4 (candidate last wire) ++ [bitByte (decide (wire.toNat < last.toNat % 65536))]) s

/-- `FCNT.RESET` (R167). -/
def execFcntReset (scope h : BitVec 2) (s : State) : Out :=
  if scope = 0 then done [] { s with r := clearUnicast s.r }
  else if scope = 1 then done [] { s with r := clearMcStream s.r h }
  else if scope = 2 then
    done [] { s with r := { clearUnicast s.r with mcFcntDown := #v[0, 0, 0, 0], fcntValid := 0 } }
  else raise .errParam s

end Sys2Proof.Machine
end

