-- ==== Sys2Proof/Machine/DutyCycle.lean ====
section
/-! DEFINITION. Duty cycle, ADR and acknowledgment retries (43_dutycycle_adr.md). -/

namespace Sys2Proof.Machine

/-- The time-off after a transmission: `toa * N - toa` (R176), a number that may exceed 32 bits (R185). -/
def timeOff (toa : Word) (n : Half) : Nat := toa.toNat * n.toNat - toa.toNat

/-- `DC.TX_UPDATE` (R176). -/
def execDcTxUpdate (now toa : Word) (channel : Byte) (s : State) : Out :=
  let off := timeOff toa s.r.aggDcycle
  if 2 ^ 32 ≤ off then raise .errParam s
  else
    let s := s.log (.regionTxDone channel s.r.joined now toa)
    done [] { s with r := { s.r with aggTimeOff := BitVec.ofNat 32 off, lastAggTx := now, aggTxValid := true } }

/-- What is left of the aggregated time-off (R177). -/
def aggWait (r : Regs) (now : Word) : Word :=
  let elapsed := now - r.lastAggTx
  if r.aggTxValid ∧ elapsed < r.aggTimeOff then r.aggTimeOff - elapsed else 0

/-- The larger of two waits. -/
def maxWord (a b : Word) : Word := if a < b then b else a

/-- `DC.SCHEDULE` (R177). -/
def execDcSchedule (now : Word) (allowDelayed : Bool) (s : State) : Out :=
  let wait := aggWait s.r now
  match regionNextChannel now s.r.chDatarate s.r.joined wait s with
  | (none, s) => raise .errNoFreeChannel s
  | (some (channel, regionWait), s) =>
    let backoff := maxWord wait regionWait
    if backoff = 0 then done ([0, channel, s.r.chDatarate] ++ le32 0) s
    else if allowDelayed then
      done ([1, channel, s.r.chDatarate] ++ le32 backoff) { s with t := s.t.arm .dcDelay (now + backoff) }
    else raiseWith .errDutycycleRestricted (le32 backoff) s

/-- The writes and the answer of `ADR.NEXT` once the request bit is known (R179). -/
def adrFinish (req : Bool) (s : State) : Out :=
  done [s.r.chDatarate, s.r.chTxPower, bitByte req]
    { s with fd := { s.fd with fctrl := setAdrBits s.fd.fctrl s.r.adrOn req } }

/-- `ADR.NEXT` (R179): the Region is asked only when ADR is on. -/
def execAdrNext (s : State) : Out :=
  if !s.r.adrOn then adrFinish false s
  else
    match regionAdrNext s.r.adrAckCnt s.r.chDatarate s.r.chTxPower s with
    | ((dr, pw, req), s) => adrFinish req { s with r := { s.r with chDatarate := dr, chTxPower := pw } }

/-- `ADR.UPLINK_END` (R180): one more exchange without a class A downlink, saturating. -/
def execAdrUplinkEnd (classADownlink : Bool) (s : State) : Out :=
  if s.r.adrOn ∧ classADownlink = false ∧ s.r.adrAckCnt.toNat < 2 ^ 32 - 1 then
    done [] { s with r := { s.r with adrAckCnt := s.r.adrAckCnt + 1 } }
  else done [] s

/-- The retry ceiling: `min(max(retries, 1), 8)` (R182). -/
def retryCeiling (retries : Byte) : BitVec 4 := BitVec.ofNat 4 (min (max retries.toNat 1) ackRetryCap)

/-- `ACK.START` (R182). -/
def execAckStart (retries : Byte) (s : State) : Out :=
  done [(retryCeiling retries).setWidth 8]
    { s with r := { s.r with ackRetries := retryCeiling retries, ackRetryCnt := 1 } }

/-- The end of an exchange whose retries are used up (R183). -/
def ackGiveUp (s : State) : Out :=
  let nb := s.r.ackRetryCnt
  let s := { s with r := { s.r with ackRetryCnt := 0 }, t := s.t.disarmClassA }
  report .failAckExhausted [1, nb.setWidth 8, 0, s.r.chDatarate] (s.log .regionRestoreDefaults)

/-- The datarate of the next retransmission: one step down when the new count is odd (R183). -/
def ackStep (s : State) : State :=
  if s.r.ackRetryCnt.getLsbD 0 then
    match regionNextLowerDr s.r.chDatarate s with
    | (dr, s) => { s with r := { s.r with chDatarate := dr } }
  else s

/-- `ACK.TIMEOUT` (R183). -/
def execAckTimeout (s : State) : Out :=
  if s.r.ackRetryCnt = 0 then raise .errParam s
  else if s.r.ackRetries ≤ s.r.ackRetryCnt then ackGiveUp s
  else
    let s := ackStep { s with r := { s.r with ackRetryCnt := s.r.ackRetryCnt + 1 } }
    done [0, s.r.ackRetryCnt.setWidth 8, 0, s.r.chDatarate] s

/-- `ACK.RECEIVED` (R184). -/
def execAckReceived (s : State) : Out :=
  if s.r.ackRetryCnt = 0 then raise .errParam s
  else
    done [s.r.ackRetryCnt.setWidth 8, 1, s.r.chDatarate]
      { s with r := { s.r with ackRetryCnt := 0 }, t := s.t.disarm .ackTo }

end Sys2Proof.Machine
end

