-- ==== Sys2Proof/Machine/RxWindows.lean ====
section
/-! DEFINITION. The receive windows of class A and class C (44_rx_windows.md). -/

namespace Sys2Proof.Machine

/-- The radio after a class A exchange step: continuous reception in class C, asleep otherwise (R201, R203). -/
def restOrListen (s : State) : State :=
  if s.r.deviceClass = .c then listen .classC s.r.chDatarate none 0 (s.setSlot .classC)
  else (s.setSlot .none).log .radioSleep

/-- The delay of RX1 and of RX2: by join state (R201). -/
def rxDelays (r : Regs) : Word × Word :=
  if r.joined then (r.receiveDelay1, r.receiveDelay2) else (r.joinAcceptDelay1, r.joinAcceptDelay2)

/-- The timers armed at TX-done (R201). -/
def armRx (t1 t2 : Word) (confirmed : Bool) (s : State) : State :=
  let t := (s.t.arm .rx1 t1).arm .rx2 t2
  { s with t := if confirmed then t.arm .ackTo (t2 + s.par.ackTimeout) else t }

/-- `RXW.TX_DONE` (R201). -/
def execRxwTxDone (now : Word) (confirmed : Bool) (s : State) : Out :=
  match regionWindow (.regionRxWindow .win1 s.r.chDatarate) s with
  | ((off1, _), s) =>
    match regionWindow (.regionRxWindow .win2 s.r.chDatarate) s with
    | ((off2, _), s) =>
      let t1 := now + (rxDelays s.r).1 + off1
      let t2 := now + (rxDelays s.r).2 + off2
      done (le32 t1 ++ le32 t2) (restOrListen (armRx t1 t2 confirmed s))

/-- The window an `RXW.OPEN` opens. -/
def winSlot (win2 : Bool) : RxSlot := if win2 then .win2 else .win1

/-- `RXW.OPEN` (R202). The Radio is in standby also when the Region refuses (70_reset_and_hazards.md R317). -/
def execRxwOpen (win2 : Bool) (s : State) : Out :=
  match regionWindow (.regionRxWindow (winSlot win2) s.r.chDatarate) s with
  | ((_, wait), s) =>
    match regionRxConfig (winSlot win2) s.r.chDatarate none (s.log .radioStandby) with
    | (false, s) => raise .errParam s
    | (true, s) =>
      let t := if win2 ∧ s.r.deviceClass = .c then 0 else wait
      done [] ((s.setSlot (winSlot win2)).log (.radioReceive t))

/-- `RXW.RX_DONE` (R203). Outcome 0 is `FRAME_OK`. -/
def execRxwRxDone (outcome : BitVec 2) (s : State) : Out :=
  let x := s.r.rxSlot
  if x ≠ .win1 ∧ x ≠ .win2 ∧ x ≠ .classC then raise .errParam s
  else
    let t := if outcome = 0 ∧ x = .win1 then s.t.disarm .rx2 else s.t
    done [(slotCode x).setWidth 8] (restOrListen { s with t := t })

end Sys2Proof.Machine
end

