-- ==== Sys2Proof/Machine/FrameCodec.lean ====
section
/-! DEFINITION. The Frame Codec (40_frame_codec.md): `SER.*`, `PARSE.*`, classification, address matching,
placement of MAC commands, and the port check. -/

namespace Sys2Proof.Machine

/-! ### The descriptor as the fields of a frame, and back (30_encoding.md R71) -/

/-- The join-request the descriptor holds. -/
def FrameDesc.joinRequest (d : FrameDesc) : JoinRequest where
  mhdr := d.mhdr
  joinEui := d.joinEui
  devEui := d.devEui
  devNonce := d.devNonce
  mic := d.mic

/-- The rejoin-request of type 0 or 2 the descriptor holds. -/
def FrameDesc.rejoin02 (d : FrameDesc) : Rejoin02 where
  mhdr := d.mhdr
  rejoinType := d.rejoinType
  netId := d.netId
  devEui := d.devEui
  rjCount := d.rjCount
  mic := d.mic

/-- The rejoin-request of type 1 the descriptor holds. -/
def FrameDesc.rejoin1 (d : FrameDesc) : Rejoin1 where
  mhdr := d.mhdr
  joinEui := d.joinEui
  devEui := d.devEui
  rjCount := d.rjCount
  mic := d.mic

/-- The join-accept the descriptor and the channel-list bytes hold. -/
def FrameDesc.joinAccept (d : FrameDesc) (cflist : Option (List Byte)) : JoinAccept where
  mhdr := d.mhdr
  joinNonce := d.joinNonce
  netId := d.netId
  devAddr := d.devAddr
  dlSettings := d.dlSettings
  rxDelay := d.rxDelay
  cflist := cflist
  mic := d.mic

/-- The port byte of the frame the descriptor holds, when it is present. -/
def FrameDesc.port (d : FrameDesc) : Option Byte := if d.fportPresent then some d.fport else none

/-- The data frame the descriptor holds, with its options and payload bytes. -/
def FrameDesc.dataFrame (d : FrameDesc) (fopts payload : List Byte) : DataFrame where
  mhdr := d.mhdr
  addr := d.devAddr
  fctrl := d.fctrl
  fcnt := d.fcnt
  fopts := fopts
  fport := d.port
  payload := payload
  mic := d.mic

/-- The descriptor after a join-request has been parsed into it (R105). -/
def FrameDesc.setJoinRequest (d : FrameDesc) (f : JoinRequest) : FrameDesc :=
  { d with mhdr := f.mhdr, joinEui := f.joinEui, devEui := f.devEui, devNonce := f.devNonce, mic := f.mic }

/-- The descriptor after a rejoin-request of type 0 or 2 (R106). -/
def FrameDesc.setRejoin02 (d : FrameDesc) (f : Rejoin02) : FrameDesc :=
  { d with mhdr := f.mhdr, rejoinType := f.rejoinType, netId := f.netId, devEui := f.devEui,
           rjCount := f.rjCount, mic := f.mic }

/-- The descriptor after a rejoin-request of type 1 (R106). -/
def FrameDesc.setRejoin1 (d : FrameDesc) (f : Rejoin1) : FrameDesc :=
  { d with mhdr := f.mhdr, rejoinType := 1, joinEui := f.joinEui, devEui := f.devEui,
           rjCount := f.rjCount, mic := f.mic }

/-- The state after a join-accept has been parsed into the descriptor (R107): `FD.CFLIST` keeps its bytes
when the frame has no list. -/
def State.setJoinAccept (s : State) (f : JoinAccept) : State :=
  let d := { s.fd with mhdr := f.mhdr, joinNonce := f.joinNonce, netId := f.netId, devAddr := f.devAddr,
                       dlSettings := f.dlSettings, rxDelay := f.rxDelay,
                       cflistPresent := f.cflist.isSome, mic := f.mic }
  { s.write .cflist 0 (f.cflist.getD []) with fd := d }

/-- The state after a data frame has been taken into the descriptor and the buffers (R108, R132):
`FD.FOPTS[n..14]` keep their bytes; without a port, `FD.FPORT` and `FD.PLD_LEN` are 0. -/
def State.setDataFrame (s : State) (f : DataFrame) : State :=
  let d := { s.fd with mhdr := f.mhdr, devAddr := f.addr, fctrl := f.fctrl, fcnt := f.fcnt,
                       fportPresent := f.fport.isSome, fport := f.fport.getD 0,
                       pldLen := BitVec.ofNat 8 f.payload.length, mic := f.mic }
  { (s.write .fopts 0 f.fopts).write .pld 0 f.payload with fd := d }

/-! ### Serialize (R100 to R104) -/

/-- The contract of R100: the capacity operand, then the length, then the frame. -/
def serialize (cap : Byte) (msg : List Byte) (s : State) : Out :=
  if cap.toNat < msg.length then raise .errBufSize s else done [] (s.putTx msg)

/-- `SER.JOINREQ` (R101). -/
def execSerJoinreq (cap : Byte) (s : State) : Out :=
  if !capOk s.par cap then raise .errParam s
  else serialize cap s.fd.joinRequest.bytes s

/-- `SER.REJOIN` (R102). -/
def execSerRejoin (cap : Byte) (s : State) : Out :=
  if !capOk s.par cap then raise .errParam s
  else if s.fd.rejoinType = 0 ∨ s.fd.rejoinType = 2 then serialize cap s.fd.rejoin02.bytes s
  else if s.fd.rejoinType = 1 then serialize cap s.fd.rejoin1.bytes s
  else raise .errParam s

/-- `SER.JOINACC` (R103). The length is tested before the list is read. -/
def execSerJoinacc (cap : Byte) (s : State) : Out :=
  if !capOk s.par cap then raise .errParam s
  else if cap.toNat < 17 + (if s.fd.cflistPresent then 16 else 0) then raise .errBufSize s
  else if s.fd.cflistPresent then serialize cap (s.fd.joinAccept (some (s.fdArray .cflist 16))).bytes s
  else serialize cap (s.fd.joinAccept none).bytes s

/-- The length of the data frame the descriptor describes: `12 + n + p + L` (R69). -/
def FrameDesc.dataLen (d : FrameDesc) : Nat :=
  12 + foptsLen d.fctrl + (if d.fportPresent then 1 else 0) + d.pldLen.toNat

/-- `SER.DATA` (R104). The length is tested before options and payload are read. -/
def execSerData (cap : Byte) (s : State) : Out :=
  if !capOk s.par cap then raise .errParam s
  else if s.fd.pldLen ≠ 0 ∧ s.fd.fportPresent = false then raise .errParam s
  else if cap.toNat < s.fd.dataLen then raise .errBufSize s
  else
    orFault (s.read .pld 0 s.fd.pldLen.toNat) fun pl =>
    serialize cap (s.fd.dataFrame (s.fdArray .fopts (foptsLen s.fd.fctrl)) pl).bytes s

/-! ### Parse (R105 to R108) -/

/-- The first `n` bytes of `RXBUF` are not all there: the buffer ends before them. Every rule tests this before it reads
and raises `ERR_PARSE` (20_memory.md R53). -/
def State.rxEnds (s : State) (n : Nat) : Bool := decide (s.par.phyMax < n)

/-- `RXBUF[0 .. RX_LEN-1]`. -/
def State.frame (s : State) : Option (List Byte) := s.read .rx 0 s.rxLen.toNat

/-- `PARSE.JOINREQ` (R105). -/
def execParseJoinreq (s : State) : Out :=
  if s.rxLen ≠ 23 ∨ s.rxEnds 23 then raise .errParse s
  else orFault s.frame fun b => done [] { s with fd := s.fd.setJoinRequest (.ofBytes b) }

/-- `PARSE.REJOIN` (R106). The type byte is read before the rest. -/
def execParseRejoin (s : State) : Out :=
  if s.rxLen.toNat < 2 ∨ s.rxEnds s.rxLen.toNat then raise .errParse s
  else orFault (s.byteOf .rx 1) fun t =>
    if (t = 0 ∨ t = 2) ∧ s.rxLen = 19 then
      orFault s.frame fun b => done [] { s with fd := s.fd.setRejoin02 (.ofBytes b) }
    else if t = 1 ∧ s.rxLen = 24 then
      orFault s.frame fun b => done [] { s with fd := s.fd.setRejoin1 (.ofBytes b) }
    else raise .errParse s

/-- `PARSE.JOINACC` (R107). -/
def execParseJoinacc (s : State) : Out :=
  if (s.rxLen ≠ 17 ∧ s.rxLen ≠ 33) ∨ s.rxEnds s.rxLen.toNat then raise .errParse s
  else orFault s.frame fun b => done [] (s.setJoinAccept (.ofBytes b))

/-- The data frame in `RXBUF`, 12 to `PHY_MAX` bytes (R69), or `ERR_PARSE` (R108, R72): its control byte is read before
the rest. -/
def withDataFrame (s : State) (k : List Byte → DataFrame → Out) : Out :=
  if s.rxLen.toNat < 12 ∨ s.rxEnds s.rxLen.toNat then raise .errParse s
  else orFault (s.byteOf .rx 5) fun c =>
    if s.rxLen.toNat < 12 + foptsLen c then raise .errParse s
    else orFault s.frame fun b => k b (.ofBytes b)

/-- `PARSE.DATA` (R108). -/
def execParseData (s : State) : Out :=
  withDataFrame s fun _ f => done [] (s.setDataFrame f)

/-! ### Frame preparation helpers -/

/-- Kind, direction and confirmation of an `MType` (R109), each as the byte of its result. -/
def classify (mtype : BitVec 3) : List Byte :=
  match mtype.toNat with
  | 0 => [0, 0, 0]
  | 1 => [1, 1, 0]
  | 2 => [2, 0, 0]
  | 3 => [2, 1, 0]
  | 4 => [2, 0, 1]
  | 5 => [2, 1, 1]
  | 6 => [3, 0, 0]
  | _ => [4, 0, 0]

/-- `FRAME.CLASSIFY` (R109). It reads the first byte only. -/
def execFrameClassify (s : State) : Out :=
  if s.rxLen = 0 ∨ s.rxEnds 1 then raise .errParse s
  else orFault (s.byteOf .rx 0) fun h =>
    if h.extractLsb' 0 2 ≠ 0 then raise .errParse s
    else done (classify (h.extractLsb' 5 3)) s

/-- The lowest valid multicast entry with an address (R113). -/
def mcMatch (mc : Vector McEntry 4) (addr : Word) : Option (BitVec 2) :=
  [0, 1, 2, 3].find? fun h => (at4 mc h).valid && (at4 mc h).addr == addr

/-- The downlink stream of a unicast frame (42_counters.md R168). -/
def unicastStream (variant : Variant) (fport : Option Byte) : BitVec 3 :=
  if variant = .v11 ∧ fport.any (· ≠ 0) then 1 else 0

/-- `FRAME.MATCH_ADDR` (R113). -/
def execFrameMatchAddr (s : State) : Out :=
  match mcMatch s.mc s.fd.devAddr with
  | some h =>
    if ackBit s.fd.fctrl ∨ adrAckReqBit s.fd.fctrl then raise .failMcFormat s
    else done ([BitVec.ofNat 8 (1 + h.toNat)] ++ le32 (at4 s.mc h).addr ++ [BitVec.ofNat 8 (2 + h.toNat)]) s
  | none =>
    if s.r.joined ∧ s.r.devAddr = s.fd.devAddr then
      done ([0] ++ le32 s.r.devAddr ++ [(unicastStream s.r.lwVariant s.fd.port).setWidth 8]) s
    else raise .failAddress s

/-- `PORT.CHECK` (R111). -/
def execPortCheck (port : Byte) (compliance : Bool) (s : State) : Out :=
  if portMin ≤ port.toNat ∧ port.toNat ≤ portMax then done [0] s
  else if port.toNat = portCompliance ∧ compliance then done [1] s
  else raise .errParam s

/-- `FRAME.PLACE_CMDS` (R112). A string longer than `PLD` answers `ERR_BUF_SIZE` too: no command writes at
or above a capacity (20_memory.md R53; DEDUCED, log entry 12). -/
def execFramePlaceCmds (cmds : List Byte) (maxPld : Byte) (s : State) : Out :=
  if cmds.length = 0 then
    done [0] { s with fd := { s.fd with fctrl := setFoptsLen s.fd.fctrl 0 } }
  else if cmds.length ≤ foptsMax then
    done [1] { s.write .fopts 0 cmds with
      fd := { s.fd with fctrl := setFoptsLen s.fd.fctrl cmds.length } }
  else if maxPld.toNat < cmds.length ∨ s.par.phyMax < cmds.length then raise .errBufSize s
  else
    report (if s.fd.pldLen = 0 then .ok else .infoSkippedAppData) [2] { s.write .pld 0 cmds with
      fd := { s.fd with pldLen := BitVec.ofNat 8 cmds.length, fport := 0, fportPresent := true,
                        fctrl := setFoptsLen s.fd.fctrl 0 } }

end Sys2Proof.Machine
end

