-- ==== Sys2Proof/Machine/Security.lean ====
section
/-! DEFINITION. The Security Engine (41_security_engine.md): the fixed 16-byte blocks, the keystreams, the
MIC of a data frame, and the eight `SEC.*` commands. Calls on the Secure Element are made in the order of the
pseudocode, and every register is written after the last of them (60_exceptions.md R285). -/

namespace Sys2Proof.Machine

/-! ### Fixed blocks -/

/-- `n` zero bytes. -/
def zeros (n : Nat) : List Byte := List.replicate n 0

/-- The direction byte: uplink 0, downlink 1 (R126). -/
def dirByte (down : Bool) : Byte := if down then 1 else 0

/-- `B0(dir, addr, fcnt, len, conf)` (R126). -/
def blockB0 (down : Bool) (addr fcnt : Word) (len : Nat) (conf : Half) : List Byte :=
  [0x49] ++ le16 conf ++ [0, 0, dirByte down] ++ le32 addr ++ le32 fcnt ++ [0, BitVec.ofNat 8 len]

/-- `B1(addr, fcnt, len, conf, txDr, txCh)` (R127). -/
def blockB1 (addr fcnt : Word) (len : Nat) (conf : Half) (txDr txCh : Byte) : List Byte :=
  [0x49] ++ le16 conf ++ [txDr, txCh, 0] ++ le32 addr ++ le32 fcnt ++ [0, BitVec.ofNat 8 len]

/-- The keystream block `A_i` (R128); index 0 is the options block of R129. -/
def blockA (down : Bool) (addr fcnt : Word) (i : Nat) : List Byte :=
  [1, 0, 0, 0, 0, dirByte down] ++ le32 addr ++ le32 fcnt ++ [0, BitVec.ofNat 8 i]

/-- The exclusive or of a string with a keystream that is at least as long. -/
def xorBytes (s ks : List Byte) : List Byte := List.zipWith (fun x y => x ^^^ y) s ks

/-! ### Keystreams -/

/-- `n` keystream blocks from index `i` on, each one call of `SE.ecb` (R128). -/
def keystream (slot : KeySlot) (down : Bool) (addr fcnt : Word) :
    Nat → Nat → State → Option (List Byte) × State
  | 0, _, s => (some [], s)
  | n + 1, i, s =>
    seThen (seEcb (blockA down addr fcnt i) slot s) fun b s =>
    seThen (keystream slot down addr fcnt n (i + 1) s) fun r s => (some (b ++ r), s)

/-- `PayloadCrypt(slot, dir, addr, fcnt, s)` (R128): `ceil(L / 16)` calls, none for the empty string. -/
def payloadCrypt (slot : KeySlot) (down : Bool) (addr fcnt : Word) (x : List Byte) (s : State) :
    Option (List Byte) × State :=
  seThen (keystream slot down addr fcnt ((x.length + 15) / 16) 1 s) fun ks s => (some (xorBytes x ks), s)

/-- `FOptsCrypt(dir, addr, fcnt, f)` (R129), for a non-empty options string. -/
def foptsCrypt (down : Bool) (addr fcnt : Word) (f : List Byte) (s : State) : Option (List Byte) × State :=
  seThen (seEcb (blockA down addr fcnt 0) .nwkSEncKey s) fun ks s => (some (xorBytes f ks), s)

/-- The options of a frame: encrypted when `crypt` says so and there are any, else as they are. -/
def foptsMaybeCrypt (crypt down : Bool) (addr fcnt : Word) (f : List Byte) (s : State) :
    Option (List Byte) × State :=
  if crypt ∧ f ≠ [] then foptsCrypt down addr fcnt f s else (some f, s)

/-! ### MIC of a data frame (R130) -/

/-- The uplink MIC: one CMAC in `V1_0`, two halves of two in `V1_1`, the `S_NWK_S_INT_KEY` half first on the
wire. -/
def uplinkMic (variant : Variant) (addr fcnt : Word) (msg : List Byte) (conf : Half) (txDr txCh : Byte)
    (s : State) : Option Word × State :=
  match variant with
  | .v10 => seCmac (some (blockB0 false addr fcnt msg.length 0)) msg .fNwkSIntKey s
  | .v11 =>
    seThen (seCmac (some (blockB1 addr fcnt msg.length conf txDr txCh)) msg .sNwkSIntKey s) fun cS s =>
    seThen (seCmac (some (blockB0 false addr fcnt msg.length 0)) msg .fNwkSIntKey s) fun cF s =>
      (some (cF.extractLsb' 0 16 ++ cS.extractLsb' 0 16), s)

/-- The downlink MIC: one full CMAC in both variants. -/
def downlinkMic (addr fcnt : Word) (msg : List Byte) (conf : Half) (slot : KeySlot) (s : State) :
    Option Word × State :=
  seCmac (some (blockB0 true addr fcnt msg.length conf)) msg slot s

/-! ### Data frames -/

/-- `conf` of an uplink (R127): the low half of the last accepted downlink counter when `ACK` is set. -/
def uplinkConf (s : State) : Half := if ackBit s.fd.fctrl then s.r.lastDownFcnt.setWidth 16 else 0

/-- The frame of `SEC.UPLINK` without its trailer (R131). -/
def uplinkMsg (d : FrameDesc) (counter : Word) (fo ct : List Byte) : List Byte :=
  ({ d.dataFrame fo ct with fcnt := counter.setWidth 16 } : DataFrame).body

/-- The writes of a successful `SEC.UPLINK` (R131). -/
def commitUplink (counter : Word) (msg : List Byte) (mic : Word) (s : State) : State :=
  { s.putTx (msg ++ le32 mic) with
    fd := { s.fd with fcnt := counter.setWidth 16, mic := mic }
    r := { s.r with fcntUp := counter } }

/-- `SEC.UPLINK` (R131). -/
def execSecUplink (counter : Word) (txDatarate txChannel cap : Byte) (s : State) : Out :=
  if !s.r.joined then raise .errNotJoined s
  else if !capOk s.par cap then raise .errParam s
  else if counter < s.r.fcntUp then raise .failFcntSmaller s
  else if s.fd.pldLen ≠ 0 ∧ s.fd.fportPresent = false then raise .errParam s
  else if cap.toNat < s.fd.dataLen then raise .errBufSize s
  else
    orFault (s.read .pld 0 s.fd.pldLen.toNat) fun pl =>
    orSeFailed (payloadCrypt (uplinkPayloadSlot s.fd.fport) false s.fd.devAddr counter pl s) fun ct s =>
    let f := s.fdArray .fopts (foptsLen s.fd.fctrl)
    orSeFailed (foptsMaybeCrypt (s.r.lwVariant == .v11) false s.fd.devAddr counter f s) fun fo s =>
    let msg := uplinkMsg s.fd counter fo ct
    orSeFailed (uplinkMic s.r.lwVariant s.fd.devAddr counter msg (uplinkConf s) txDatarate txChannel s)
      fun mic s => done [] (commitUplink counter msg mic s)

/-- The address kind, the stream and the multicast entry of a `SEC.DOWNLINK` fit together (R132). -/
def downlinkKindOk (addrKind counterKind : BitVec 3) (mc : Vector McEntry 4) : Bool :=
  if 4 < addrKind.toNat ∨ 5 < counterKind.toNat then false
  else
    match addrEntry addrKind with
    | none => decide (counterKind.toNat ≤ 1)
    | some h => decide (counterKind = mcStream h) && (at4 mc h).valid

/-- `conf` of a downlink (R126): the low half of the acknowledged uplink's counter, for a `V1_1` unicast frame
with `ACK`. -/
def downlinkConf (v11u : Bool) (fctrl : Byte) (r : Regs) : Half :=
  if v11u ∧ ackBit fctrl then r.fcntUp.setWidth 16 else 0

/-- The writes of a successful `SEC.DOWNLINK` (R132): the frame in clear, the stream's counter, and the ADR ack
counter, which returns to zero on any successful downlink. -/
def commitDownlink (k : BitVec 3) (cand : Word) (f : DataFrame) (fo pt : List Byte) (s : State) : State :=
  let s := s.setDataFrame { f with fopts := fo, payload := pt }
  { s with r := { setLastFcnt s.r k cand with
                    fcntValid := setValid s.r.fcntValid k, lastDownFcnt := cand, adrAckCnt := 0 } }

/-- `SEC.DOWNLINK` (R132). -/
def execSecDownlink (addrKind : BitVec 3) (address : Word) (counterKind : BitVec 3) (cand : Word)
    (s : State) : Out :=
  if !downlinkKindOk addrKind counterKind s.mc then raise .errParam s
  else if addrKind = 0 ∧ s.r.joined = false then raise .errNotJoined s
  else withDataFrame s fun b f =>
    let valid := streamValid s.r.fcntValid counterKind
    let v11u := s.r.lwVariant == .v11 && addrKind == 0
    if f.addr ≠ address then raise .failAddress s
    else if cand.setWidth 16 ≠ f.fcnt then raise .errParam s
    else if valid ∧ cand = lastFcnt s.r counterKind then raise .failFcntDuplicated s
    else if valid ∧ cand < lastFcnt s.r counterKind then raise .failFcntSmaller s
    else
      orSeFailed (downlinkMic address cand (b.take (s.rxLen.toNat - 4)) (downlinkConf v11u f.fctrl s.r)
        (downlinkMicSlot (addrEntry addrKind)) s) fun mic s =>
      if mic ≠ f.mic then raise .failMic s
      else
        orSeFailed (payloadCrypt (downlinkPayloadSlot (addrEntry addrKind) (f.fport == some 0)) true address
          cand f.payload s) fun pt s =>
        orSeFailed (foptsMaybeCrypt v11u true address cand f.fopts s) fun fo s =>
        done (le32 cand ++ [bitByte (addrKind != 0)]) (commitDownlink counterKind cand f fo pt s)

/-! ### Join and rejoin -/

/-- The writes of `SEC.JOINREQ` and `SEC.REJOIN`. -/
def commitRequest (msg : List Byte) (mic : Word) (s : State) : State :=
  { s.putTx (msg ++ le32 mic) with fd := { s.fd with mic := mic } }

/-- `SEC.JOINREQ` (R133). -/
def execSecJoinreq (cap : Byte) (s : State) : Out :=
  if !capOk s.par cap then raise .errParam s
  else if cap.toNat < 23 then raise .errBufSize s
  else
    orSeFailed (seCmac none s.fd.joinRequest.body .nwkKey s) fun mic s =>
    done [] (commitRequest s.fd.joinRequest.body mic s)

/-- `SEC.REJOIN` (R134). -/
def execSecRejoin (cap : Byte) (s : State) : Out :=
  if !capOk s.par cap then raise .errParam s
  else if 2 < s.fd.rejoinType.toNat then raise .errParam s
  else if s.fd.rejoinType = 1 then
    if cap.toNat < 24 then raise .errBufSize s
    else
      orSeFailed (seCmac none s.fd.rejoin1.body .jSIntKey s) fun mic s =>
      done [] (commitRequest s.fd.rejoin1.body mic s)
  else if s.r.joined = false then raise .errNotJoined s
  else if cap.toNat < 19 then raise .errBufSize s
  else
    orSeFailed (seCmac none s.fd.rejoin02.body .sNwkSIntKey s) fun mic s =>
    done [] (commitRequest s.fd.rejoin02.body mic s)

/-- Derivations made one after another; the first that fails ends them (R136, 70_reset_and_hazards.md R318). -/
def deriveAll : List (List Byte × KeySlot × KeySlot) → State → Option Unit × State
  | [], s => (some (), s)
  | (block, root, target) :: r, s => seThen (seDeriveStore block root target s) fun _ s => deriveAll r s

/-- The composition block of a `V1_0` session key (R136). -/
def blockSession10 (tag : Byte) (joinNonce netId : Tri) (devNonce : Half) : List Byte :=
  [tag] ++ le24 joinNonce ++ le24 netId ++ le16 devNonce ++ zeros 7

/-- The composition block of a `V1_1` session key (R136). -/
def blockSession11 (tag : Byte) (joinNonce : Tri) (joinEui : Eui) (devNonce : Half) : List Byte :=
  [tag] ++ le24 joinNonce ++ revEui joinEui ++ le16 devNonce ++ zeros 2

/-- The calls of `DeriveSession` (R136), in order. -/
def sessionSteps (variant : Variant) (joinNonce netId : Tri) (joinEui : Eui) (devNonce : Half) :
    List (List Byte × KeySlot × KeySlot) :=
  match variant with
  | .v10 =>
    [(blockSession10 1 joinNonce netId devNonce, .nwkKey, .fNwkSIntKey),
     (blockSession10 1 joinNonce netId devNonce, .nwkKey, .sNwkSIntKey),
     (blockSession10 1 joinNonce netId devNonce, .nwkKey, .nwkSEncKey),
     (blockSession10 2 joinNonce netId devNonce, .nwkKey, .appSKey)]
  | .v11 =>
    [(blockSession11 1 joinNonce joinEui devNonce, .nwkKey, .fNwkSIntKey),
     (blockSession11 2 joinNonce joinEui devNonce, .appKey, .appSKey),
     (blockSession11 3 joinNonce joinEui devNonce, .nwkKey, .sNwkSIntKey),
     (blockSession11 4 joinNonce joinEui devNonce, .nwkKey, .nwkSEncKey)]

/-- The blocks of an encrypted join-accept, each read and then decrypted with the AES encrypt primitive
(R135). -/
def decryptBlocks (slot : KeySlot) : Nat → Nat → List Byte → State → (List Byte → State → Out) → Out
  | 0, _, pl, s, k => k pl s
  | n + 1, i, pl, s, k =>
    orFault (s.read .rx i 16) fun c =>
    orSeFailed (seEcb c slot s) fun out s => decryptBlocks slot n (i + 16) (pl ++ out) s k

/-- The variant a join-accept negotiates (R135): 1.1 only when the device is and `OptNeg` is set. -/
def joinVariant (r : Regs) (dlSettings : Byte) : Variant :=
  if r.lwVariant = .v11 ∧ dlSettings.getLsbD 7 then .v11 else .v10

/-- The MIC of a join-accept whose plaintext without the trailer is `body` (R135). -/
def joinacceptMic (v : Variant) (reqType : Byte) (joinEui : Eui) (devNonce : Half) (body : List Byte)
    (s : State) : Option Word × State :=
  match v with
  | .v10 => seCmac none body .nwkKey s
  | .v11 => seCmac none ([reqType] ++ revEui joinEui ++ le16 devNonce ++ body) .jSIntKey s

/-- The writes of a successful `SEC.JOINACC` (R135), but for the call on the Region. -/
def commitJoin (v : Variant) (pl : List Byte) (f : JoinAccept) (s : State) : State :=
  let s := (s.write .rx 0 pl).setJoinAccept f
  { s with r := { clearUnicast s.r with
                    joined := true, netId := f.netId, devAddr := f.devAddr, lwVariant := v, adrAckCnt := 0 } }

/-- "Apply any appended channel-list": the list goes to the Region (R135). -/
def applyCflist (l : Option (List Byte)) (s : State) : State :=
  match l with
  | none => s
  | some l => s.log (.regionApplyCflist l)

/-- `SEC.JOINACC` (R135). -/
def execSecJoinacc (reqType : Byte) (joinEui : Eui) (devNonce : Half) (s : State) : Out :=
  if reqType ≠ 0xFF ∧ 2 < reqType.toNat then raise .errParam s
  else if reqType = 0xFF ∧ s.r.joined then raise .failAlreadyJoined s
  else if (s.rxLen ≠ 17 ∧ s.rxLen ≠ 33) ∨ s.rxEnds s.rxLen.toNat then raise .errParse s
  else
    orFault (s.byteOf .rx 0) fun h =>
    decryptBlocks (if reqType = 0xFF then .nwkKey else .jSEncKey) ((s.rxLen.toNat - 1) / 16) 1 [h] s fun pl s =>
    let f := JoinAccept.ofBytes pl
    let v := joinVariant s.r f.dlSettings
    orSeFailed (joinacceptMic v reqType joinEui devNonce (pl.take (s.rxLen.toNat - 4)) s) fun mic s =>
    if mic ≠ f.mic then raise .failMic s
    else
      orSeFailed (deriveAll (sessionSteps v f.joinNonce f.netId joinEui devNonce) s) fun _ s =>
      done [variantByte v, bitByte f.cflist.isSome] (applyCflist f.cflist (commitJoin v pl f s))

/-! ### Key derivation -/

/-- `SEC.DERIVE_SESSION` (R136). -/
def execSecDeriveSession (variant : Variant) (joinNonce netId : Tri) (joinEui : Eui) (devNonce : Half)
    (s : State) : Out :=
  orSeFailed (deriveAll (sessionSteps variant joinNonce netId joinEui devNonce) s) fun _ s => done [] s

/-- The calls of a stage of `SEC.DERIVE_MC` (R137). -/
def mcSteps (variant : Variant) : McStage → List (List Byte × KeySlot × KeySlot)
  | .root =>
    match variant with
    | .v11 => [([0x20] ++ zeros 15, .appKey, .mcRootKey)]
    | .v10 => [(zeros 16, .genAppKey, .mcRootKey)]
  | .ke => [(zeros 16, .mcRootKey, .mcKeKey)]
  | .key h encKey => [(beBytes 16 encKey.toNat, .mcKeKey, .mcKey h)]
  | .session h mcAddr =>
    [([1] ++ le32 mcAddr ++ zeros 11, .mcKey h, .mcAppSKey h),
     ([2] ++ le32 mcAddr ++ zeros 11, .mcKey h, .mcNwkSKey h)]

/-- `SEC.DERIVE_MC` (R137). -/
def execSecDeriveMc (stage : McStage) (s : State) : Out :=
  orSeFailed (deriveAll (mcSteps s.r.lwVariant stage) s) fun _ s => done [] s

/-- The calls of `SEC.DERIVE_LIFETIME` (R138). -/
def lifetimeSteps (devEui : Eui) : List (List Byte × KeySlot × KeySlot) :=
  [([6] ++ revEui devEui ++ zeros 7, .nwkKey, .jSIntKey),
   ([5] ++ revEui devEui ++ zeros 7, .nwkKey, .jSEncKey)]

/-- `SEC.DERIVE_LIFETIME` (R138). -/
def execSecDeriveLifetime (devEui : Eui) (s : State) : Out :=
  orSeFailed (deriveAll (lifetimeSteps devEui) s) fun _ s => done [] s

end Sys2Proof.Machine
end

