-- ==== Sys2Proof/Machine/ClassB.lean ====
section
/-! DEFINITION. The class B scheduler (45_classb_beacon.md): slot times and their arming, the beacon tracker,
and the ping and multicast slots. -/

namespace Sys2Proof.Machine

/-! ### Slots (R225 to R227) -/

/-- `2^(7 - periodicity)` slots per beacon period (R225). -/
def pingNbOf (periodicity : BitVec 3) : Byte := BitVec.ofNat 8 (2 ^ (7 - periodicity.toNat))

/-- `2^(5 + periodicity)` slots between two openings (R225). -/
def pingPeriodOf (periodicity : BitVec 3) : BitVec 13 := BitVec.ofNat 13 (2 ^ (5 + periodicity.toNat))

/-- The default content of `PingRand` (R226; PRESUMED, log entry 16): the first two bytes of one AES block under the
all-zero key. -/
def aesPingRand (t addr : Word) : Half := numAt (aes128 0 (le32 t ++ le32 addr ++ List.replicate 8 0)) 0 2

/-- `PingRand(t, addr)` (R226), the function the parameters choose. It is not a call of the SE port and cannot
fail. -/
def pingRand (par : Params) (t addr : Word) : Half :=
  match par.pingRand with
  | .aes => aesPingRand t addr
  | .other => Config.pingRand t addr

/-- `PingOffset(t, addr, period)` (R226). -/
def pingOffset (par : Params) (t addr : Word) (period : BitVec 13) : BitVec 12 :=
  BitVec.ofNat 12 ((pingRand par t addr).toNat % period.toNat)

/-- The slot index of slot `n` of a sequence (R227). -/
def slotIndex (offset : BitVec 12) (period : BitVec 13) (n : Byte) : Nat :=
  offset.toNat + n.toNat * period.toNat

/-- `SlotTime(k)` (R227). -/
def slotTime (s : State) (k : Nat) : Word :=
  s.b.epoch + BitVec.ofNat 32 (s.par.beaconReserved + k * s.par.slotLen)

/-- The first slot index of a sequence that is not past at `rel` ms after the epoch, or the end of the period
(R227). The first argument bounds the search. -/
def skipPast (par : Params) (offset : BitVec 12) (period : BitVec 13) (nb : Byte) (rel : Nat) : Nat → Byte → Byte
  | 0, n => n
  | fuel + 1, n =>
    if n < nb ∧ par.beaconReserved + slotIndex offset period n * par.slotLen < rel then
      skipPast par offset period nb rel fuel (n + 1)
    else n

/-- Time since the epoch (R227). -/
def sinceEpoch (s : State) (now : Word) : Nat := (now - s.b.epoch).toNat

/-- `ArmPing(now)` (R227). -/
def armPing (now : Word) (s : State) : State :=
  if s.r.deviceClass ≠ .b ∨ s.p.assigned = false then { s with t := s.t.disarm .ping }
  else
    let n := skipPast s.par s.p.offset s.p.pingPeriod s.p.pingNb (sinceEpoch s now) s.p.pingNb.toNat s.p.nextN
    let t :=
      if n < s.p.pingNb then s.t.arm .ping (slotTime s (slotIndex s.p.offset s.p.pingPeriod n))
      else s.t.disarm .ping
    { s with p := { s.p with nextN := n }, t := t }

/-- A multicast entry with its past slots skipped (R227). -/
def skipEntry (s : State) (now : Word) (e : McEntry) : McEntry :=
  if e.valid then
    { e with nextN := skipPast s.par e.offset e.pingPeriod e.pingNb (sinceEpoch s now) e.pingNb.toNat e.nextN }
  else e

/-- The next slot index of an entry that has one left (R227). -/
def nextSlot (e : McEntry) : Option Nat :=
  if e.valid ∧ e.nextN < e.pingNb then some (slotIndex e.offset e.pingPeriod e.nextN) else none

/-- The better of the best entry so far and entry `h`: the smaller slot index, the earlier entry on a tie. -/
def pickBetter (mc : Vector McEntry 4) (best : Option (BitVec 2 × Nat)) (h : BitVec 2) :
    Option (BitVec 2 × Nat) :=
  match nextSlot (at4 mc h), best with
  | none, best => best
  | some k, none => some (h, k)
  | some k, some (j, kj) => if k < kj then some (h, k) else some (j, kj)

/-- The entry whose next slot comes first, and its slot index (R227). -/
def firstEntry (mc : Vector McEntry 4) : Option (BitVec 2 × Nat) :=
  [0, 1, 2, 3].foldl (pickBetter mc) none

/-- `ArmMc(now)` (R227). -/
def armMc (now : Word) (s : State) : State :=
  if s.r.deviceClass ≠ .b then { s with t := s.t.disarm .mcslot }
  else
    let mc := s.mc.map (skipEntry s now)
    match firstEntry mc with
    | some (h, k) =>
      { s with mc := mc, r := { s.r with mcslotOwner := h }, t := s.t.arm .mcslot (slotTime s k) }
    | none => { s with mc := mc, t := s.t.disarm .mcslot }

/-! ### Procedures of the beacon tracker -/

/-- A multicast entry at the start of a beacon period (R221): a valid one has a new offset. -/
def renewEntry (par : Params) (timeS : Word) (e : McEntry) : McEntry :=
  if e.valid then { e with offset := pingOffset par timeS e.addr e.pingPeriod, nextN := 0 } else { e with nextN := 0 }

/-- New offsets and restarted slot sequences (the first lines of R221). -/
def renewSlots (s : State) : State :=
  let off := if s.p.assigned then pingOffset s.par s.b.timeS s.r.devAddr s.p.pingPeriod else s.p.offset
  { s with p := { s.p with offset := off, nextN := 0 }, mc := s.mc.map (renewEntry s.par s.b.timeS) }

/-- `EnterIdle(now)` (R221). -/
def enterIdle (now : Word) (s : State) : State :=
  let s := (renewSlots s).enter .idle
  let due := s.b.epoch + BitVec.ofNat 32 s.par.beaconInterval - BitVec.ofNat 32 s.par.beaconGuard
  let s := armMc now (armPing now { s with t := s.t.arm .beacon due })
  (s.setSlot .none).log .radioSleep

/-- A device that leaves class B for class A (R223, R224). -/
def leaveClassB (r : Regs) : Regs := if r.deviceClass = .b then { r with deviceClass := .a } else r

/-- `Lost()` (R223). -/
def lostBeacon (s : State) : State :=
  let s := s.enter .lost
  let s := { s with b := { s.b with run := false, acqPending := false }, t := s.t.disarmClassB, r := leaveClassB s.r }
  (s.setSlot .none).log .radioSleep

/-- The effects of `BCN.HALT` (R224), which leaving class B has too (46_system.md R253): the beacon registers return to
their reset values except the symbol timeouts. The rule's pseudocode does not write `B.LAST_RX`, `B.EPOCH` and
`B.TIME_S`, its prose says that they return too: DEDUCED, log entry 26. -/
def haltTracker (s : State) : State :=
  let s := s.enter .acquisition
  let s := { s with b := { Beacon.reset s.par with symto := s.b.symto },
                    t := s.t.disarmClassB, r := leaveClassB s.r }
  if s.r.rxSlot = .beacon ∨ s.r.rxSlot = .pingSlot ∨ s.r.rxSlot = .mcSlot then
    (s.setSlot .none).log .radioSleep
  else s

/-- A beacon window opened: standby, configuration, reception (R217, R220). -/
def openBeacon (t : Word) (s : State) : State :=
  listen .beacon 0 none t ((s.setSlot .beacon).log .radioStandby)

/-! ### Beacon commands -/

/-- `BCN.ACQUIRE` (R217). -/
def execBcnAcquire (_now : Word) (s : State) : Out :=
  if s.b.run then raise .errBusy s
  else if s.r.deviceClass = .c then raise .errParam s
  else
    let s := s.enter .acquisition
    let s := { s with b := { s.b with run := true, acqPending := true, lastRxValid := false,
                                      symto := s.par.bcnSymtoDef },
                      p := { s.p with symto := s.par.pingSymtoDef } }
    done [] (openBeacon (BitVec.ofNat 32 s.par.beaconInterval) s)

/-- A beacon reception is going on, and the tracker waits for its end (R218, R219). -/
def awaitsBeacon (s : State) : Bool :=
  s.b.run && s.r.rxSlot == .beacon && (s.b.state == .acquisition || s.b.state == .rx)

/-- `BCN.RX_BEACON` (R218). -/
def execBcnRxBeacon (now tBeacon beaconTimeS : Word) (s : State) : Out :=
  if !awaitsBeacon s then raise .errParam s
  else
    let s := s.enter .locked
    let s := { s with b := { s.b with lastRx := tBeacon, lastRxValid := true, epoch := tBeacon,
                                      timeS := beaconTimeS, symto := s.par.bcnSymtoDef, acqPending := false },
                      p := { s.p with symto := s.par.pingSymtoDef } }
    done [1] (enterIdle now s)

/-- The beacon is lost (R223): none since the acquisition, or none for longer than the limit. -/
def beaconGone (s : State) (now : Word) : Bool :=
  !s.b.lastRxValid || decide (s.par.maxBeaconLess < (now - s.b.lastRx).toNat)

/-- A symbol timeout after a missed beacon (R222): multiplied and capped. -/
def expandSymto (x cap : Half) (factor : Nat) : Half := BitVec.ofNat 16 (min (x.toNat * factor) cap.toNat)

/-- The registers of beacon-less operation (R219). -/
def extrapolate (s : State) : State :=
  { s with
    b := { s.b with
      epoch := s.b.epoch + BitVec.ofNat 32 s.par.beaconInterval
      timeS := s.b.timeS + BitVec.ofNat 32 (s.par.beaconInterval / 1000)
      symto := expandSymto s.b.symto s.par.bcnSymtoMax s.par.symtoFactor }
    p := { s.p with symto := expandSymto s.p.symto s.par.pingSymtoMax s.par.symtoFactor } }

/-- `BCN.RX_TIMEOUT` (R219). -/
def execBcnRxTimeout (now : Word) (s : State) : Out :=
  if !awaitsBeacon s then raise .errParam s
  else
    let s := (s.enter .timeout).enter .beaconMissed
    if beaconGone s now then done [if s.b.acqPending then 3 else 2] (lostBeacon s)
    else done [0] (enterIdle now ((extrapolate s).enter .reacquisition))

/-- `BCN.TIMER` (R220). -/
def execBcnTimer (_now : Word) (s : State) : Out :=
  if s.b.run = false then raise .errParam s
  else if s.b.state = .idle then
    let s := s.enter .guard
    let s := { s with t := (s.t.disarm .ping).disarm .mcslot }
    match regionWindow (.regionBeaconWindow s.b.symto) s with
    | ((off, _), s) =>
      done [] { s with t := s.t.arm .beacon (s.b.epoch + BitVec.ofNat 32 s.par.beaconInterval + off) }
  else if s.b.state = .guard then
    let s := s.enter .rx
    match regionWindow (.regionBeaconWindow s.b.symto) s with
    | ((_, wait), s) => done [] (openBeacon wait s)
  else raise .errParam s

/-- `BCN.HALT` (R224). -/
def execBcnHalt (s : State) : Out := done [] (haltTracker s)

/-! ### Ping and multicast slots -/

/-- The parameters of the ping slots (R225). -/
def setPingInfo (periodicity : BitVec 3) (s : State) : State :=
  { s with p := { s.p with periodicity := periodicity, pingNb := pingNbOf periodicity,
                           pingPeriod := pingPeriodOf periodicity, assigned := true } }

/-- `PING.SET_INFO` (R225). With no beacon to place the slots by, `P.OFFSET` and `P.NEXT_N` stay as R225's pseudocode and
vector V610 leave them, so the old offset may be at or above a shorter new period, against the bound of 10_state.md R26
(DEDUCED, unsafe, log entry 27). -/
def execPingSetInfo (periodicity : BitVec 3) (now : Word) (s : State) : Out :=
  let s := setPingInfo periodicity s
  if s.b.run ∧ s.b.lastRxValid then
    let s := { s with p := { s.p with offset := pingOffset s.par s.b.timeS s.r.devAddr s.p.pingPeriod, nextN := 0 } }
    done [] (if s.b.state = .idle then armPing now s else s)
  else done [] s

/-- A class B slot window opened (R228, R229): the Region's timeout, then standby, configuration, reception. -/
def openSlot (slot : RxSlot) (arg : Byte) (mcPhy : Option (Word × Byte)) (s : State) : State :=
  match regionWindow (.regionPingWindow s.p.symto) s with
  | ((_, wait), s) => listen slot arg mcPhy wait ((s.setSlot slot).log .radioStandby)

/-- A unicast slot yields to any reception and to a multicast slot due at the same instant (R228, R230). -/
def pingYields (s : State) (k : Nat) : Bool :=
  s.r.rxSlot != .none || (s.t.mcslot.armed && s.t.mcslot.due == slotTime s k)

/-- `PING.TIMER` (R228). -/
def execPingTimer (now : Word) (s : State) : Out :=
  if s.b.run = false ∨ s.b.state ≠ .idle ∨ s.r.deviceClass ≠ .b ∨ s.p.assigned = false ∨ s.p.pingNb ≤ s.p.nextN then
    raise .errParam s
  else
    let k := slotIndex s.p.offset s.p.pingPeriod s.p.nextN
    let s := { s with p := { s.p with nextN := s.p.nextN + 1 } }
    if pingYields s k then done ([1] ++ leBytes 2 k) (armPing now s)
    else done ([0] ++ leBytes 2 k) (armPing now (openSlot .pingSlot 0 none s))

/-- A multicast slot yields only to a class A window, the beacon, or another multicast slot (R229). -/
def mcYields (s : State) : Bool :=
  s.r.rxSlot == .win1 || s.r.rxSlot == .win2 || s.r.rxSlot == .beacon || s.r.rxSlot == .mcSlot

/-- `MCSLOT.TIMER` (R229). -/
def execMcslotTimer (now : Word) (s : State) : Out :=
  let h := s.r.mcslotOwner
  let e := at4 s.mc h
  if s.b.run = false ∨ s.b.state ≠ .idle ∨ s.r.deviceClass ≠ .b ∨ e.valid = false ∨ e.pingNb ≤ e.nextN then
    raise .errParam s
  else
    let k := slotIndex e.offset e.pingPeriod e.nextN
    let s := { s with mc := set4 s.mc h { e with nextN := e.nextN + 1 } }
    if mcYields s then done ([1] ++ leBytes 2 k ++ [h.setWidth 8]) (armMc now s)
    else
      done ([0] ++ leBytes 2 k ++ [h.setWidth 8])
        (armMc now (openSlot .mcSlot (h.setWidth 8) (some (e.freq, e.datarate)) s))

/-- `SLOT.RX_DONE` (R231). The outcome changes nothing. -/
def execSlotRxDone (_outcome : BitVec 2) (s : State) : Out :=
  if s.r.rxSlot ≠ .pingSlot ∧ s.r.rxSlot ≠ .mcSlot then raise .errParam s
  else done [(slotCode s.r.rxSlot).setWidth 8] ((s.setSlot .none).log .radioSleep)

end Sys2Proof.Machine
end

