-- ==== Sys2Proof/Machine/System.lean ====
section
/-! DEFINITION. The system commands and the event source's port action (46_system.md). -/

namespace Sys2Proof.Machine

/-- Every register and length register at its reset value, the buffers unspecified again (10_state.md R31).
The parameters, the ports, the key slots and the calls made so far are not the block's registers. -/
def State.reinit (s : State) : State :=
  { s with
    fd := .reset
    txLen := 0
    rxLen := 0
    mem := .reset
    evt := 0
    r := .reset s.par
    mc := mcReset
    t := .reset
    b := .reset s.par
    p := .reset s.par
    path := [] }

/-- `SYS.INIT` (R250). The Region's default datarate and power are pure queries (70_reset_and_hazards.md R310):
their answers are the parameters `reinit` has stored. -/
def execSysInit (s : State) : Out :=
  done [] ((((s.reinit.log .regionInitDefaults).log .regionDefaultDatarate).log .regionDefaultTxPower).log
    .radioSleep)

/-- `MIB.GET` (R251). -/
def execMibGet (id : Byte) (s : State) : Out :=
  match readRegister s id.toNat with
  | none => raise .errParam s
  | some v => done (le32 v) s

/-- `MIB.SET` (R252): the register must be settable and the value legal, then the Region is asked where it
must be, then the register is written. -/
def execMibSet (id : Byte) (value : Word) (s : State) : Out :=
  match writeRegister s.r id.toNat value with
  | none => raise .errParam s
  | some r =>
    match validatedKind id.toNat with
    | none => done [] { s with r := r }
    | some kind =>
      match regionValidate kind (value.setWidth 8) s with
      | (false, s) => raise .errParam s
      | (true, s) => done [] { s with r := r }

/-- Class A to class B (R253). -/
def classAToB (now : Word) (s : State) : State :=
  let s := { s with r := { s.r with deviceClass := .b } }
  if s.b.state = .idle then armMc now (armPing now s) else s

/-- Class A to class C (R253): continuous reception. -/
def classAToC (s : State) : State :=
  let s := { s with r := { s.r with deviceClass := .c, rxSlot := .classC } }
  listen .classC s.r.chDatarate none 0 (s.log .radioStandby)

/-- Class C to class A (R253). -/
def classCToA (s : State) : State :=
  ({ s with r := { s.r with deviceClass := .a, rxSlot := .none } }).log .radioSleep

/-- What every switch does first (R253): the class A timers disarmed, an open confirmed exchange closed. -/
def closeExchange (s : State) : State :=
  { s with t := s.t.disarmClassA, r := { s.r with ackRetryCnt := 0 } }

/-- `SYS.SET_CLASS` (R253). -/
def execSysSetClass (cls : BitVec 2) (now : Word) (s : State) : Out :=
  match classOf cls with
  | none => raise .errParam s
  | some target =>
    match s.r.deviceClass, target with
    | .a, .a => done [] s
    | .b, .b => done [] s
    | .c, .c => done [] s
    | .b, .c => raise .errParam s
    | .c, .b => raise .errParam s
    | .a, .b =>
      if s.b.run = false ∨ s.b.lastRxValid = false ∨ s.p.assigned = false then raise .errParam s
      else done [] (classAToB now (closeExchange s))
    | .b, .a => done [] (haltTracker (closeExchange s))
    | .a, .c => if s.b.run then raise .errBusy s else done [] (classAToC (closeExchange s))
    | .c, .a => done [] (classCToA (closeExchange s))

/-- `EVT.DRAIN` (R255): the flags are read and cleared in one indivisible access. -/
def execEvtDrain (s : State) : Out := done (leBytes 2 s.evt.toNat) { s with evt := 0 }

/-- The flags of `R.EVT` in the fixed order in which the HOST handles those that one `EVT.DRAIN` has returned
(60_exceptions.md R288): the radio completions, then the class B and C timers, then the core timers. The order is a duty
of the HOST; `HandlesBatch` states it as the discipline under which the claims about a batch hold. -/
def drainOrder : List (BitVec 4) := [0, 1, 2, 3, 4, 8, 9, 10, 11, 12, 13, 14]

/-- The flags set in a drained value, in drain order (R288). -/
def flagsInOrder (v : BitVec 16) : List (BitVec 4) := drainOrder.filter fun n => v.getLsbD n.toNat

/-- The command answers the flag (60_exceptions.md R287). For `RX_DONE` the rule names "the frame commands" without a
list, so any command may stand there; `TX_TIMEOUT` has none in this block. -/
def answersFlag (n : BitVec 4) (i : Instr) : Bool :=
  match n.toNat, i with
  | 0, .dcTxUpdate .. => true
  | 0, .rxwTxDone .. => true
  | 1, _ => true
  | 3, .rxwRxDone .. => true
  | 3, .slotRxDone .. => true
  | 3, .bcnRxTimeout .. => true
  | 4, .rxwRxDone .. => true
  | 4, .slotRxDone .. => true
  | 4, .bcnRxTimeout .. => true
  | 8, .bcnTimer .. => true
  | 9, .mcslotTimer .. => true
  | 10, .pingTimer .. => true
  | 11, .rxwOpen false => true
  | 12, .rxwOpen true => true
  | 13, .ackTimeout => true
  | 14, .dcSchedule .. => true
  | _, _ => false

/-- `EVT.POST` (R254), the event source's port action: it writes `R.EVT` and an expiring timer's `ARMED` and
nothing else, no status among it. A timer whose expiry is not enabled, and a bit of no source, post nothing
(log entry 11). -/
def execEvtPost (bit : BitVec 4) (clock : Word) (s : State) : Out :=
  if bit.toNat ≤ 4 then .next { s with evt := setFlag s.evt bit }
  else
    match timerOfBit bit with
    | none => .next s
    | some x =>
      if (s.t.get x).armed ∧ reached clock (s.t.get x).due then
        .next { s with t := s.t.disarm x, evt := setFlag s.evt bit }
      else .next s

/-- The entry of a new multicast channel, with no beacon yet (R256). -/
def newEntry (addr freq : Word) (datarate : Byte) (periodicity : BitVec 3) : McEntry where
  valid := true
  addr := addr
  freq := freq
  datarate := datarate
  periodicity := periodicity
  pingNb := pingNbOf periodicity
  pingPeriod := pingPeriodOf periodicity
  offset := 0
  nextN := 0

/-- `MC.ADD` (R256). -/
def execMcAdd (h : BitVec 2) (addr freq : Word) (datarate : Byte) (periodicity : BitVec 3) (now : Word)
    (s : State) : Out :=
  if (at4 s.mc h).valid then raise .errParam s
  else
    let e := newEntry addr freq datarate periodicity
    let s := { s with mc := set4 s.mc h e, r := clearMcStream s.r h }
    if s.b.run ∧ s.b.lastRxValid then
      let s := { s with mc := set4 s.mc h { e with offset := pingOffset s.par s.b.timeS addr e.pingPeriod } }
      done [] (if s.b.state = .idle then armMc now s else s)
    else done [] s

/-- `MC.REMOVE` (R257). -/
def execMcRemove (h : BitVec 2) (now : Word) (s : State) : Out :=
  if (at4 s.mc h).valid = false then raise .errParam s
  else
    let s := { s with mc := set4 s.mc h .reset, r := clearMcStream s.r h }
    done [] (if s.t.mcslot.armed ∧ s.r.mcslotOwner = h then armMc now s else s)

end Sys2Proof.Machine
end

