-- ==== Sys2Proof/Machine/Wire.lean ====
section
/-! DEFINITION. What the HOST does to the block without a command (10_state.md R10, 20_memory.md R44): direct
writes of the frame descriptor, the buffers and the length registers, and frames and header bytes stored in
their wire layout (30_encoding.md R62 to R70; the reading of a wire row as such a store is log entry 5).
`STATUS` and the answer belong to commands and stay. -/

namespace Sys2Proof.Machine

/-! ### Wire layouts -/

/-- A received frame put into `RXBUF` with its length in `RX_LEN`, as the HOST does before it issues a frame
command (46_system.md R254). -/
def storeFrame (bytes : List Byte) (s : State) : Out :=
  if s.par.phyMax < bytes.length then .fault .beyondCapacity
  else .next { s.write .rx 0 bytes with rxLen := BitVec.ofNat 8 bytes.length }

/-- A header byte put into `FD.MHDR`. -/
def storeMhdr (v : Byte) (s : State) : Out := .next { s with fd := { s.fd with mhdr := v } }

/-- The header byte of a message type (R63), with the reserved bits as they are and `Major` 0. -/
def storeMtype (k : MType) (rfu : BitVec 3) (s : State) : Out := storeMhdr (mhdrByte k.bits rfu 0) s

/-- `MHDR` (R62). -/
def execMhdr (mtype rfu : BitVec 3) (major : BitVec 2) (s : State) : Out := storeMhdr (mhdrByte mtype rfu major) s

/-- `MTYPE.JOIN_REQUEST` (R63). -/
def execMtypeJoinRequest (rfu : BitVec 3) (s : State) : Out := storeMtype .joinRequest rfu s
/-- `MTYPE.JOIN_ACCEPT` (R63). -/
def execMtypeJoinAccept (rfu : BitVec 3) (s : State) : Out := storeMtype .joinAccept rfu s
/-- `MTYPE.UNCONFIRMED_DATA_UP` (R63). -/
def execMtypeUnconfirmedDataUp (rfu : BitVec 3) (s : State) : Out := storeMtype .unconfirmedDataUp rfu s
/-- `MTYPE.UNCONFIRMED_DATA_DOWN` (R63). -/
def execMtypeUnconfirmedDataDown (rfu : BitVec 3) (s : State) : Out := storeMtype .unconfirmedDataDown rfu s
/-- `MTYPE.CONFIRMED_DATA_UP` (R63). -/
def execMtypeConfirmedDataUp (rfu : BitVec 3) (s : State) : Out := storeMtype .confirmedDataUp rfu s
/-- `MTYPE.CONFIRMED_DATA_DOWN` (R63). -/
def execMtypeConfirmedDataDown (rfu : BitVec 3) (s : State) : Out := storeMtype .confirmedDataDown rfu s
/-- `MTYPE.REJOIN_REQUEST` (R63). -/
def execMtypeRejoinRequest (rfu : BitVec 3) (s : State) : Out := storeMtype .rejoinRequest rfu s
/-- `MTYPE.PROPRIETARY` (R63). -/
def execMtypeProprietary (rfu : BitVec 3) (s : State) : Out := storeMtype .proprietary rfu s

/-- `FRAME.JOIN_REQUEST` (R64). -/
def execFrameJoinRequest (f : JoinRequest) (s : State) : Out := storeFrame f.bytes s
/-- `FRAME.REJOIN_0_2` (R65). -/
def execFrameRejoin02 (f : Rejoin02) (s : State) : Out := storeFrame f.bytes s
/-- `FRAME.REJOIN_1` (R66). -/
def execFrameRejoin1 (f : Rejoin1) (s : State) : Out := storeFrame f.bytes s
/-- `FRAME.JOIN_ACCEPT` (R67). -/
def execFrameJoinAccept (f : JoinAccept) (s : State) : Out := storeFrame f.bytes s
/-- `FRAME.DATA` (R69). -/
def execFrameData (f : DataFrame) (s : State) : Out := storeFrame f.bytes s

/-- `DLSETTINGS` (R68). -/
def execDlsettings (optNeg : BitVec 1) (rx1DrOffset : BitVec 3) (rx2DataRate : BitVec 4) (s : State) : Out :=
  .next { s with fd := { s.fd with dlSettings := dlSettingsByte optNeg rx1DrOffset rx2DataRate } }

/-- `FCTRL` (R70). -/
def execFctrl (adr adrAckReq ack classB : BitVec 1) (foptsLen : BitVec 4) (s : State) : Out :=
  .next { s with fd := { s.fd with fctrl := fctrlByte adr adrAckReq ack classB foptsLen } }

/-! ### Direct writes -/

/-- One register of the frame descriptor written (10_state.md R11). -/
def writeFd (d : FrameDesc) : HostAccess → FrameDesc
  | .mhdr v => { d with mhdr := v }
  | .joinEui v => { d with joinEui := v }
  | .devEui v => { d with devEui := v }
  | .devNonce v => { d with devNonce := v }
  | .rejoinType v => { d with rejoinType := v }
  | .rjCount v => { d with rjCount := v }
  | .netId v => { d with netId := v }
  | .joinNonce v => { d with joinNonce := v }
  | .devAddr v => { d with devAddr := v }
  | .dlSettings v => { d with dlSettings := v }
  | .rxDelay v => { d with rxDelay := v }
  | .cflistPresent v => { d with cflistPresent := v }
  | .fctrl v => { d with fctrl := v }
  | .fcnt v => { d with fcnt := v }
  | .fportPresent v => { d with fportPresent := v }
  | .fport v => { d with fport := v }
  | .pldLen v => { d with pldLen := v }
  | .mic v => { d with mic := v }
  | .txLen _ => d
  | .rxLen _ => d
  | .buffer .. => d
  | .key .. => d

/-- A direct write of the HOST. A buffer has no byte at or above its capacity (20_memory.md R44, R53). -/
def hostWrite (a : HostAccess) (s : State) : Out :=
  match a with
  | .txLen v => .next { s with txLen := v }
  | .rxLen v => .next { s with rxLen := v }
  | .buffer b off bytes =>
    if capacity s.par b < off + bytes.length then .fault .beyondCapacity else .next (s.write b off bytes)
  | .key slot k => .next { s with se := s.se.put slot k }
  | a => .next { s with fd := writeFd s.fd a }

end Sys2Proof.Machine
end

