-- ==== Sys2Proof/Machine/Dispatch.lean ====
section
/-! DEFINITION. The meaning of every instruction: one arm per row of spec/opcode_table.json. -/

namespace Sys2Proof.Machine

def exec (i : Instr) (s : State) : Host.Outcome State Fault Refusal :=
  match i with
  | .sysInit => Sys2Proof.Machine.execSysInit s
  | .mibGet id => Sys2Proof.Machine.execMibGet id s
  | .mibSet id value => Sys2Proof.Machine.execMibSet id value s
  | .sysSetClass cls now => Sys2Proof.Machine.execSysSetClass cls now s
  | .evtDrain => Sys2Proof.Machine.execEvtDrain s
  | .mcAdd h addr freq datarate periodicity now => Sys2Proof.Machine.execMcAdd h addr freq datarate periodicity now s
  | .mcRemove h now => Sys2Proof.Machine.execMcRemove h now s
  | .serJoinreq cap => Sys2Proof.Machine.execSerJoinreq cap s
  | .serRejoin cap => Sys2Proof.Machine.execSerRejoin cap s
  | .serJoinacc cap => Sys2Proof.Machine.execSerJoinacc cap s
  | .serData cap => Sys2Proof.Machine.execSerData cap s
  | .parseJoinreq => Sys2Proof.Machine.execParseJoinreq s
  | .parseRejoin => Sys2Proof.Machine.execParseRejoin s
  | .parseJoinacc => Sys2Proof.Machine.execParseJoinacc s
  | .parseData => Sys2Proof.Machine.execParseData s
  | .frameClassify => Sys2Proof.Machine.execFrameClassify s
  | .frameMatchAddr => Sys2Proof.Machine.execFrameMatchAddr s
  | .framePlaceCmds cmds maxPld => Sys2Proof.Machine.execFramePlaceCmds cmds maxPld s
  | .portCheck port compliance => Sys2Proof.Machine.execPortCheck port compliance s
  | .secUplink counter txDatarate txChannel cap => Sys2Proof.Machine.execSecUplink counter txDatarate txChannel cap s
  | .secDownlink addrKind address counterKind fCntCandidate => Sys2Proof.Machine.execSecDownlink addrKind address counterKind fCntCandidate s
  | .secJoinreq cap => Sys2Proof.Machine.execSecJoinreq cap s
  | .secRejoin cap => Sys2Proof.Machine.execSecRejoin cap s
  | .secJoinacc reqType joinEui devNonce => Sys2Proof.Machine.execSecJoinacc reqType joinEui devNonce s
  | .secDeriveSession variant joinNonce netId joinEui devNonce => Sys2Proof.Machine.execSecDeriveSession variant joinNonce netId joinEui devNonce s
  | .secDeriveMc stage => Sys2Proof.Machine.execSecDeriveMc stage s
  | .secDeriveLifetime devEui => Sys2Proof.Machine.execSecDeriveLifetime devEui s
  | .fcntNextUp => Sys2Proof.Machine.execFcntNextUp s
  | .fcntReconstruct counterKind wire => Sys2Proof.Machine.execFcntReconstruct counterKind wire s
  | .fcntReset scope h => Sys2Proof.Machine.execFcntReset scope h s
  | .dcTxUpdate now toa channel => Sys2Proof.Machine.execDcTxUpdate now toa channel s
  | .dcSchedule now allowDelayed => Sys2Proof.Machine.execDcSchedule now allowDelayed s
  | .adrNext => Sys2Proof.Machine.execAdrNext s
  | .adrUplinkEnd classADownlink => Sys2Proof.Machine.execAdrUplinkEnd classADownlink s
  | .ackStart retries => Sys2Proof.Machine.execAckStart retries s
  | .ackTimeout => Sys2Proof.Machine.execAckTimeout s
  | .ackReceived => Sys2Proof.Machine.execAckReceived s
  | .rxwTxDone now confirmed => Sys2Proof.Machine.execRxwTxDone now confirmed s
  | .rxwOpen win2 => Sys2Proof.Machine.execRxwOpen win2 s
  | .rxwRxDone outcome => Sys2Proof.Machine.execRxwRxDone outcome s
  | .bcnAcquire now => Sys2Proof.Machine.execBcnAcquire now s
  | .bcnRxBeacon now tBeacon beaconTimeS => Sys2Proof.Machine.execBcnRxBeacon now tBeacon beaconTimeS s
  | .bcnRxTimeout now => Sys2Proof.Machine.execBcnRxTimeout now s
  | .bcnTimer now => Sys2Proof.Machine.execBcnTimer now s
  | .bcnHalt => Sys2Proof.Machine.execBcnHalt s
  | .pingSetInfo periodicity now => Sys2Proof.Machine.execPingSetInfo periodicity now s
  | .pingTimer now => Sys2Proof.Machine.execPingTimer now s
  | .mcslotTimer now => Sys2Proof.Machine.execMcslotTimer now s
  | .slotRxDone outcome => Sys2Proof.Machine.execSlotRxDone outcome s
  | .evtPost bit clock => Sys2Proof.Machine.execEvtPost bit clock s
  | .mhdr mtype rfu major => Sys2Proof.Machine.execMhdr mtype rfu major s
  | .mtypeJoinRequest rfu => Sys2Proof.Machine.execMtypeJoinRequest rfu s
  | .mtypeJoinAccept rfu => Sys2Proof.Machine.execMtypeJoinAccept rfu s
  | .mtypeUnconfirmedDataUp rfu => Sys2Proof.Machine.execMtypeUnconfirmedDataUp rfu s
  | .mtypeUnconfirmedDataDown rfu => Sys2Proof.Machine.execMtypeUnconfirmedDataDown rfu s
  | .mtypeConfirmedDataUp rfu => Sys2Proof.Machine.execMtypeConfirmedDataUp rfu s
  | .mtypeConfirmedDataDown rfu => Sys2Proof.Machine.execMtypeConfirmedDataDown rfu s
  | .mtypeRejoinRequest rfu => Sys2Proof.Machine.execMtypeRejoinRequest rfu s
  | .mtypeProprietary rfu => Sys2Proof.Machine.execMtypeProprietary rfu s
  | .frameJoinRequest f => Sys2Proof.Machine.execFrameJoinRequest f s
  | .frameRejoin02 f => Sys2Proof.Machine.execFrameRejoin02 f s
  | .frameRejoin1 f => Sys2Proof.Machine.execFrameRejoin1 f s
  | .frameJoinAccept f => Sys2Proof.Machine.execFrameJoinAccept f s
  | .dlsettings optNeg rx1DrOffset rx2DataRate => Sys2Proof.Machine.execDlsettings optNeg rx1DrOffset rx2DataRate s
  | .frameData f => Sys2Proof.Machine.execFrameData f s
  | .fctrl adr adrAckReq ack classB foptsLen => Sys2Proof.Machine.execFctrl adr adrAckReq ack classB foptsLen s

end Sys2Proof.Machine
end

