-- ==== Sys2Proof/Machine/Fetch.lean ====
section
/-! DEFINITION. What the block does with the next thing at its ports before an instruction runs: the answers
to bytes that are no command (30_encoding.md R60, R73, R75; 60_exceptions.md R271, R284, R286), and the word
of the opcode table placed where the next step takes it. -/

namespace Sys2Proof.Machine

/-- The answer to bytes that decode to nothing: a status of the command port (R286, in the order the decoder
tests), and no event and no store where the bytes have no form their port takes. -/
def answerReject (e : Reject) (s : State) : Out :=
  match e with
  | .illegalCommand => raise .errIllegalCmd s
  | .missingOperand => raise .errNpe s
  | .operandRange => raise .errParam s
  | .notALayout => .refused .notALayout

/-- The port item of a word of the opcode table. -/
def tablePortItem (nbits w : Nat) : PortItem := .bytes (tableItem nbits w).1 (tableItem nbits w).2

end Sys2Proof.Machine
end

