-- ==== Sys2Proof/Machine/Step.lean ====
section
/-! DEFINITION. One step: the block takes the next thing an agent has put at its ports and carries it out to
the end (00_scope.md R2, 20_memory.md R46, R49). With nothing there it is idle (70_reset_and_hazards.md
R313). -/

namespace Sys2Proof.Machine

/-- One step of the machine. Parameters that break a constraint of 70_reset_and_hazards.md R324 are a fault
(93_implementation_defined.md U42). -/
def step (s : State) : Host.Outcome State Fault Refusal :=
  if ¬ s.par.Ok then .fault .parametersOutOfRange
  else
    match s.port with
    | [] => .next s
    | .host a :: rest => hostWrite a { s with port := rest }
    | .bytes p bs :: rest =>
      match decode p bs with
      | .ok i => exec i { s with port := rest }
      | .error e => answerReject e { s with port := rest }

/-- The state whose next step runs the instruction a word of the opcode table stands for (log entry 1). -/
def State.withFetchWord (s : State) (nbits w : Nat) : State :=
  { s with port := tablePortItem nbits w :: s.port }

end Sys2Proof.Machine
end

