-- ==== Sys2Proof/Safety.lean ====
section
/-! DEFINITION. The terms the claims use: three invariants, each kept by every step on its own; how a command
ends and what it leaves in the buffers; which commands there are; when the Secure Element accepts a sequence of
calls, and the values it then gives; the transitions of the beacon tracker; and the registers of the information
base. -/

namespace Sys2Proof.Machine

/-! ### The core invariant -/

/-- The reserved bits of `R.EVT`: 5 to 7 and 15 (10_state.md R15, 93_implementation_defined.md U23). -/
def reservedEvt : BitVec 16 := 0x80E0

/-- The buffers are in canonical form; `1 <= R.ACK_RETRIES <= 8`, and the count stays at or below it (10_state.md
R30 (c), 43_dutycycle_adr.md R185); `R.AGG_DCYCLE >= 1` (R30 (d)); the reserved flags read as 0 (R15); and
before the first accounted transmission there is no time-off. -/
abbrev InvCore (s : State) : Prop :=
  s.mem.wf s.par
  ∧ 1 ≤ s.r.ackRetries.toNat ∧ s.r.ackRetries.toNat ≤ ackRetryCap
  ∧ s.r.ackRetryCnt.toNat ≤ s.r.ackRetries.toNat
  ∧ 1 ≤ s.r.aggDcycle.toNat
  ∧ s.evt &&& reservedEvt = 0
  ∧ (s.r.aggTxValid = false → s.r.aggTimeOff = 0 ∧ s.r.lastAggTx = 0)

/-! ### The tracker invariant -/

/-- The resting and final states of the tracker (45_classb_beacon.md R216). -/
def resting : BeaconState → Bool
  | .acquisition => true
  | .idle => true
  | .guard => true
  | .rx => true
  | .lost => true
  | _ => false

/-- After a command the tracker rests (R216), it is stopped exactly in the two states the rules say, classes B
and C exclude each other's machinery (R232, 46_system.md R253), a slot timer runs only in `IDLE` in class B
(R220, R227), and a slot identity belongs to the class or the tracker that opened it (44_rx_windows.md R205). -/
abbrev InvTracker (s : State) : Prop :=
  resting s.b.state = true
  ∧ (s.b.run = false → s.b.state = .acquisition ∨ s.b.state = .lost)
  ∧ (s.b.state = .lost → s.b.run = false)
  ∧ (s.b.run = true → s.b.state ≠ .acquisition → s.b.lastRxValid = true)
  ∧ (s.b.acqPending = true → s.b.run = true)
  ∧ (s.r.deviceClass = .c → s.b.run = false)
  ∧ (s.r.deviceClass = .b → s.b.run = true ∧ s.b.lastRxValid = true ∧ s.p.assigned = true)
  ∧ (s.t.beacon.armed = true → s.b.run = true)
  ∧ (s.t.ping.armed = true → s.r.deviceClass = .b ∧ s.b.state = .idle)
  ∧ (s.t.mcslot.armed = true → s.r.deviceClass = .b ∧ s.b.state = .idle)
  ∧ (s.r.rxSlot = .classC → s.r.deviceClass = .c)
  ∧ (s.r.rxSlot = .pingSlot ∨ s.r.rxSlot = .mcSlot → s.r.deviceClass = .b)
  ∧ (s.r.rxSlot = .beacon → s.b.run = true)

/-! ### The slot invariant -/

/-- A multicast entry: a free one is all zero; one in use has the slot numbers of its periodicity, an offset
below its period and a next slot of this beacon period (10_state.md R22, 46_system.md R256, R257). -/
abbrev entryOk (e : McEntry) : Prop :=
  (e.valid = false → e = .reset)
  ∧ (e.valid = true →
      e.pingNb = pingNbOf e.periodicity ∧ e.pingPeriod = pingPeriodOf e.periodicity
      ∧ e.offset.toNat < e.pingPeriod.toNat ∧ e.nextN.toNat ≤ e.pingNb.toNat)

/-- The ping-slot registers fit together (10_state.md R26; the offset and the next slot while a beacon places them, log
entry 27), so do the multicast entries, an armed multicast
timer has an entry with a slot left to open, and the symbol timeouts are within their bounds (R222). -/
abbrev InvSlots (s : State) : Prop :=
  s.p.pingNb = pingNbOf s.p.periodicity ∧ s.p.pingPeriod = pingPeriodOf s.p.periodicity
  ∧ (s.b.run = true → s.b.lastRxValid = true → s.p.assigned = true →
      s.p.offset.toNat < s.p.pingPeriod.toNat ∧ s.p.nextN.toNat ≤ s.p.pingNb.toNat)
  ∧ (∀ h : BitVec 2, entryOk (at4 s.mc h))
  ∧ (s.t.mcslot.armed = true →
      (at4 s.mc s.r.mcslotOwner).valid = true
      ∧ (at4 s.mc s.r.mcslotOwner).nextN.toNat < (at4 s.mc s.r.mcslotOwner).pingNb.toNat)
  ∧ s.b.symto.toNat ≤ s.par.bcnSymtoMax.toNat ∧ s.p.symto.toNat ≤ s.par.pingSymtoMax.toNat

/-! ### How a command ends -/

/-- The state after a command that answers `OK` with a result record (30_encoding.md R60, R75). -/
def answeredOk (res : List Byte) (s : State) : State := { s with status := .ok, answer := 0x00 :: res }

/-- The state after a command that fails: the status and the answer, nothing else (60_exceptions.md R285, R289). -/
def failedWith (st : Status) (s : State) : State := { s with status := st, answer := [st.code] }

/-- The buffers of `t` are those of `s` with a string written from the start of each; an empty string leaves its
buffer as it was. Said byte by byte. -/
def Stores (s t : State) (w : Buf → List Byte) : Prop :=
  ∀ (b : Buf) (j : Nat), t.byteOf b j = if j < (w b).length then (w b)[j]? else s.byteOf b j

/-- A string for one buffer only. -/
def only (b : Buf) (bytes : List Byte) : Buf → List Byte := fun c => if c = b then bytes else []

/-- The contract of 40_frame_codec.md R100 for a command that lays a frame out under a capacity operand. -/
def SerContract (run : Out) (cap : Byte) (msg : List Byte) (s : State) : Prop :=
  (cap.toNat = 0 ∨ s.par.phyMax < cap.toNat → run = .next (failedWith .errParam s))
  ∧ (1 ≤ cap.toNat → cap.toNat ≤ s.par.phyMax → cap.toNat < msg.length → run = .next (failedWith .errBufSize s))
  ∧ (1 ≤ cap.toNat → cap.toNat ≤ s.par.phyMax → msg.length ≤ cap.toNat →
      ∃ t, run = .next t
        ∧ { t with mem := s.mem } = { answeredOk [] s with txLen := BitVec.ofNat 8 msg.length }
        ∧ Stores s t (only .tx msg))

/-! ### Kinds of instruction -/

/-- The 49 command codes of 30_encoding.md R61. -/
def commandCodes : List Nat :=
  [0x00, 0x01, 0x02, 0x03, 0x04, 0x05, 0x06,
   0x10, 0x11, 0x12, 0x13, 0x14, 0x15, 0x16, 0x17, 0x18, 0x19, 0x1A, 0x1B,
   0x20, 0x21, 0x22, 0x23, 0x24, 0x25, 0x26, 0x27,
   0x30, 0x31, 0x32,
   0x40, 0x41, 0x42, 0x43, 0x44, 0x45, 0x46,
   0x50, 0x51, 0x52,
   0x60, 0x61, 0x62, 0x63, 0x64, 0x65, 0x66, 0x67, 0x68]

/-- The eight commands that call the Secure Element (41_security_engine.md R120). -/
def callsSe : Instr → Bool
  | .secUplink .. => true
  | .secDownlink .. => true
  | .secJoinreq .. => true
  | .secRejoin .. => true
  | .secJoinacc .. => true
  | .secDeriveSession .. => true
  | .secDeriveMc .. => true
  | .secDeriveLifetime .. => true
  | _ => false

/-- The four that store keys in it (70_reset_and_hazards.md R318). -/
def derivesKeys : Instr → Bool
  | .secJoinacc .. => true
  | .secDeriveSession .. => true
  | .secDeriveMc .. => true
  | .secDeriveLifetime .. => true
  | _ => false

/-- The commands whose rule reads bytes of a buffer (20_memory.md R53). -/
def readsBuffers : Instr → Bool
  | .serData .. => true
  | .parseJoinreq => true
  | .parseRejoin => true
  | .parseJoinacc => true
  | .parseData => true
  | .frameClassify => true
  | .secUplink .. => true
  | .secDownlink .. => true
  | .secJoinacc .. => true
  | _ => false

/-- The operands of a command that leave high bits of a byte unused: the index of that byte in the command's byte form,
and how many values the operand has (30_encoding.md R75, with the widths of each rule's operand list). -/
def narrowOperands : Instr → List (Nat × Nat)
  | .sysSetClass .. => [(1, 4)]
  | .mcAdd .. => [(1, 4), (11, 8)]
  | .mcRemove .. => [(1, 4)]
  | .portCheck .. => [(2, 2)]
  | .secDownlink .. => [(1, 8), (6, 8)]
  | .secDeriveSession .. => [(1, 2)]
  | .secDeriveMc .root => [(1, 4)]
  | .secDeriveMc .ke => [(1, 4)]
  | .secDeriveMc (.key ..) => [(1, 4), (2, 4)]
  | .secDeriveMc (.session ..) => [(1, 4), (2, 4)]
  | .fcntReconstruct .. => [(1, 8)]
  | .fcntReset .. => [(1, 4), (2, 4)]
  | .dcSchedule .. => [(5, 2)]
  | .adrUplinkEnd .. => [(1, 2)]
  | .rxwTxDone .. => [(5, 2)]
  | .rxwOpen .. => [(1, 2)]
  | .rxwRxDone .. => [(1, 4)]
  | .pingSetInfo .. => [(1, 8)]
  | .slotRxDone .. => [(1, 4)]
  | _ => []

/-! ### A batch of events -/

/-- Commands issued one after another. -/
def runAll : List Instr → State → Out
  | [], s => .next s
  | i :: is, s =>
    match exec i s with
    | .next t => runAll is t
    | o => o

/-- The discipline of 60_exceptions.md R288: the HOST handles the flags of a drained value in drain order, each with
commands that answer it (R287). -/
def HandlesBatch (v : BitVec 16) (work : List (BitVec 4 × List Instr)) : Prop :=
  work.map Prod.fst = flagsInOrder v ∧ ∀ g ∈ work, ∀ i ∈ g.2, answersFlag g.1 i = true

/-! ### The Secure Element -/

/-- The Secure Element accepts these calls, made one after another. -/
def SeAccepts : List Call → State → Prop
  | [], _ => True
  | c :: cs, s => (seCall c s).1 = false ∧ SeAccepts cs (seCall c s).2

/-- The slot whose key a call on the Secure Element uses. -/
def callSlot : Call → Option KeySlot
  | .seEcb _ slot => some slot
  | .seCmac _ _ slot => some slot
  | .seDeriveStore _ root _ => some root
  | _ => none

/-- A call of these names a slot that holds no key (41_security_engine.md R121: such a call fails). -/
def UsesEmptySlot (calls : List Call) (s : State) : Prop :=
  ∃ c ∈ calls, ∃ slot, callSlot c = some slot ∧ s.se.get slot = none

/-- Of these calls, made one after another, the first `n` succeed and the next one fails: refused, or on an empty slot
(R121). No command of the block uses a slot that an earlier call of its own has written, so the slots are looked up in
the state before the command. -/
def SeFailsAt (calls : List Call) (n : Nat) (s : State) : Prop :=
  n < calls.length
  ∧ SeAccepts (calls.take n) s ∧ ¬ UsesEmptySlot (calls.take n) s
  ∧ (SeAccepts (calls.take (n + 1)) s → UsesEmptySlot (calls.take (n + 1)) s)

/-! The values the Secure Element gives are those of the parameters: AES-128 and AES-CMAC in the default content, else
the free functions (41_security_engine.md R121, log entry 16). -/

/-- A block under a key (R123). -/
def encrypted (par : Params) (k : Key) (block : List Byte) : List Byte :=
  if par.seContent = .aes then aes128 k block else beBytes 16 (Config.seEcb k block).toNat

/-- A tag under a key, with or without a prefix: in the default content the first four bytes of the CMAC, as a number
(R122). -/
def tag32 (par : Params) (k : Key) (pre : Option (List Byte)) (data : List Byte) : Word :=
  if par.seContent = .aes then BitVec.ofNat 32 (unLe ((aesCmac k (pre.getD [] ++ data)).take 4))
  else Config.seCmac k pre data

/-- The key derived from a block under a root key (R124). -/
def derived (par : Params) (root : Key) (block : List Byte) : Key :=
  if par.seContent = .aes then BitVec.ofNat 128 (unBe (aes128 root block)) else Config.seDerive root block

/-- The 16-byte counter block of 41_security_engine.md R128 and R129. -/
def counterBlock (dir : Byte) (addr fcnt : Word) (i : Nat) : List Byte :=
  [0x01, 0x00, 0x00, 0x00, 0x00, dir] ++ le32 addr ++ le32 fcnt ++ [0x00, BitVec.ofNat 8 i]

/-- How many keystream blocks a string takes: `ceil(L / 16)`. -/
def blockCount (x : List Byte) : Nat := (x.length + 15) / 16

/-- The calls of `PayloadCrypt` (R128). -/
def payloadCalls (slot : KeySlot) (dir : Byte) (addr fcnt : Word) (x : List Byte) : List Call :=
  (List.range (blockCount x)).map fun i => .seEcb (counterBlock dir addr fcnt (i + 1)) slot

/-- Byte `j` of the result of `PayloadCrypt` (R128), for `j` below the length. -/
def payloadByte (par : Params) (k : Key) (dir : Byte) (addr fcnt : Word) (x : List Byte) (j : Nat) : Byte :=
  x.getD j 0 ^^^ (encrypted par k (counterBlock dir addr fcnt (j / 16 + 1))).getD (j % 16) 0

/-- The result of `PayloadCrypt` under a key (R128). -/
def cryptedPayload (par : Params) (k : Key) (dir : Byte) (addr fcnt : Word) (x : List Byte) : List Byte :=
  (List.range x.length).map (payloadByte par k dir addr fcnt x)

/-- The result of `FOptsCrypt` under a key (R129). -/
def cryptedFopts (par : Params) (k : Key) (dir : Byte) (addr fcnt : Word) (f : List Byte) : List Byte :=
  (List.range f.length).map fun j => f.getD j 0 ^^^ (encrypted par k (counterBlock dir addr fcnt 0)).getD j 0

/-- The authentication block of R126 (bytes 3 and 4 zero) and of R127 (the datarate and the channel there). -/
def authBlock (dir x3 x4 : Byte) (addr fcnt : Word) (len : Nat) (conf : Half) : List Byte :=
  [0x49] ++ le16 conf ++ [x3, x4, dir] ++ le32 addr ++ le32 fcnt ++ [0x00, BitVec.ofNat 8 len]

/-- The calls of a session derivation (41_security_engine.md R136), in order. -/
def sessionCalls (v : Variant) (joinNonce netId : Tri) (joinEui : Eui) (devNonce : Half) : List Call :=
  let b10 := fun tag : Byte => [tag] ++ le24 joinNonce ++ le24 netId ++ le16 devNonce ++ List.replicate 7 0
  let b11 := fun tag : Byte => [tag] ++ le24 joinNonce ++ revEui joinEui ++ le16 devNonce ++ List.replicate 2 0
  match v with
  | .v10 => [.seDeriveStore (b10 1) .nwkKey .fNwkSIntKey, .seDeriveStore (b10 1) .nwkKey .sNwkSIntKey,
      .seDeriveStore (b10 1) .nwkKey .nwkSEncKey, .seDeriveStore (b10 2) .nwkKey .appSKey]
  | .v11 => [.seDeriveStore (b11 1) .nwkKey .fNwkSIntKey, .seDeriveStore (b11 2) .appKey .appSKey,
      .seDeriveStore (b11 3) .nwkKey .sNwkSIntKey, .seDeriveStore (b11 4) .nwkKey .nwkSEncKey]

/-- The key slots after a session derivation with root keys `kn` and, in 1.1, `ka` (R136). -/
def sessionKeys (par : Params) (v : Variant) (joinNonce netId : Tri) (joinEui : Eui) (devNonce : Half) (kn ka : Key)
    (se : KeyStore) : KeyStore :=
  let b10 := fun tag : Byte => [tag] ++ le24 joinNonce ++ le24 netId ++ le16 devNonce ++ List.replicate 7 0
  let b11 := fun tag : Byte => [tag] ++ le24 joinNonce ++ revEui joinEui ++ le16 devNonce ++ List.replicate 2 0
  match v with
  | .v10 => { se with fNwkSIntKey := some (derived par kn (b10 1)), sNwkSIntKey := some (derived par kn (b10 1)),
                      nwkSEncKey := some (derived par kn (b10 1)), appSKey := some (derived par kn (b10 2)) }
  | .v11 => { se with fNwkSIntKey := some (derived par kn (b11 1)), appSKey := some (derived par ka (b11 2)),
                      sNwkSIntKey := some (derived par kn (b11 3)), nwkSEncKey := some (derived par kn (b11 4)) }

/-- The key slots when a session derivation has failed after its first `n` calls (70_reset_and_hazards.md R318). -/
def sessionKeysUpTo (par : Params) (n : Nat) (v : Variant) (joinNonce netId : Tri) (joinEui : Eui) (devNonce : Half) (kn ka : Key)
    (se : KeyStore) : KeyStore :=
  let full := sessionKeys par v joinNonce netId joinEui devNonce kn ka se
  match v with
  | .v10 => { se with fNwkSIntKey := if 1 ≤ n then full.fNwkSIntKey else se.fNwkSIntKey
                      sNwkSIntKey := if 2 ≤ n then full.sNwkSIntKey else se.sNwkSIntKey
                      nwkSEncKey := if 3 ≤ n then full.nwkSEncKey else se.nwkSEncKey }
  | .v11 => { se with fNwkSIntKey := if 1 ≤ n then full.fNwkSIntKey else se.fNwkSIntKey
                      appSKey := if 2 ≤ n then full.appSKey else se.appSKey
                      sNwkSIntKey := if 3 ≤ n then full.sNwkSIntKey else se.sNwkSIntKey }

/-! A join-accept as 41_security_engine.md R135 takes it apart: `b` is the frame as received, `kd` the key it is
decrypted with, `q`, `je`, `dn` the operands. -/

/-- The slot of the decryption. -/
def acceptSlot (q : Byte) : KeySlot := if q = 0xFF then .nwkKey else .jSEncKey

/-- The plaintext: the header byte and one or two blocks. -/
def acceptPlain (par : Params) (kd : Key) (b : List Byte) : List Byte :=
  [byteAt b 0] ++ encrypted par kd (slice b 1 16)
    ++ (if b.length = 33 then encrypted par kd (slice b 17 16) else [])

/-- The variant it negotiates. -/
def acceptVariant (own : Variant) (pl : List Byte) : Variant :=
  if own = .v11 ∧ (byteAt pl 11).getLsbD 7 = true then .v11 else .v10

/-- The MIC it carries. -/
def acceptMic (pl : List Byte) : Word := BitVec.ofNat 32 (unLe (slice pl (pl.length - 4) 4))

/-- The bytes its MIC covers. -/
def acceptData (v : Variant) (q : Byte) (je : Eui) (dn : Half) (pl : List Byte) : List Byte :=
  (if v = .v11 then [q] ++ revEui je ++ le16 dn else []) ++ pl.take (pl.length - 4)

/-- The slot of the MIC. -/
def acceptMicSlot (v : Variant) : KeySlot := if v = .v11 then .jSIntKey else .nwkKey

/-- The calls of the decryption and of the MIC, in order. -/
def verifyCalls (v : Variant) (q : Byte) (je : Eui) (dn : Half) (b pl : List Byte) : List Call :=
  [.seEcb (slice b 1 16) (acceptSlot q)] ++ (if b.length = 33 then [.seEcb (slice b 17 16) (acceptSlot q)] else [])
    ++ [.seCmac none (acceptData v q je dn pl) (acceptMicSlot v)]

/-! ### The beacon tracker -/

/-- The transitions of the table of 45_classb_beacon.md R216; `BCN.ACQUIRE` and `BCN.HALT` lead to
`ACQUISITION` from everywhere (R217, R224). -/
def beaconEdge : BeaconState → BeaconState → Bool
  | _, .acquisition => true
  | .acquisition, .locked => true
  | .acquisition, .timeout => true
  | .locked, .idle => true
  | .timeout, .beaconMissed => true
  | .beaconMissed, .reacquisition => true
  | .beaconMissed, .lost => true
  | .reacquisition, .idle => true
  | .idle, .guard => true
  | .guard, .rx => true
  | .rx, .locked => true
  | .rx, .timeout => true
  | _, _ => false

/-- A path from a state along these transitions. -/
def beaconPath : BeaconState → List BeaconState → Bool
  | _, [] => true
  | x, y :: l => beaconEdge x y && beaconPath y l

/-- Slot `n` of a sequence is past at `now` (45_classb_beacon.md R227). -/
def slotIsPast (s : State) (offset : BitVec 12) (period : BitVec 13) (now : Word) (n : Nat) : Prop :=
  s.par.beaconReserved + (offset.toNat + n * period.toNat) * s.par.slotLen < (now - s.b.epoch).toNat

/-- `SlotTime(k)` of R227. -/
def slotOpens (s : State) (k : Nat) : Word :=
  s.b.epoch + BitVec.ofNat 32 (s.par.beaconReserved + k * s.par.slotLen)

/-! ### The information base -/

/-- Every register with an identifier, and what it holds, zero-extended (10_state.md R12 to R32): a downlink counter
whose stream has accepted nothing reads as 0 (R18, log entry 13). -/
def registerValues (s : State) : List (Nat × Word) :=
  let bit := fun b : Bool => if b then (1 : Word) else 0
  let counter := fun (k : Nat) (v : Word) => if s.r.fcntValid.getLsbD k = true then v else 0
  let timer := fun (id : Nat) (x : Timer) => [(id, bit x.armed), (id + 1, x.due)]
  let entry := fun (h : Fin 4) =>
    let e := s.mc[h]
    let id := 0xA0 + 16 * h.val
    [(id, bit e.valid), (id + 1, e.addr), (id + 2, e.freq), (id + 3, e.datarate.setWidth 32),
     (id + 4, e.periodicity.setWidth 32), (id + 5, e.pingNb.setWidth 32), (id + 6, e.pingPeriod.setWidth 32),
     (id + 7, e.offset.setWidth 32), (id + 8, e.nextN.setWidth 32)]
  [(0x00, if s.r.lwVariant = .v11 then 1 else 0), (0x01, (classCode s.r.deviceClass).setWidth 32),
   (0x02, bit s.r.joined), (0x03, s.r.netId.setWidth 32), (0x04, s.r.devAddr), (0x05, bit s.r.adrOn),
   (0x10, s.r.receiveDelay1), (0x11, s.r.receiveDelay2), (0x12, s.r.joinAcceptDelay1),
   (0x13, s.r.joinAcceptDelay2), (0x14, s.r.chDatarate.setWidth 32), (0x15, s.r.chTxPower.setWidth 32),
   (0x16, s.r.chDatarateDef.setWidth 32), (0x17, s.r.chTxPowerDef.setWidth 32), (0x18, s.r.aggDcycle.setWidth 32)]
  ++ [(0x20, s.r.fcntUp), (0x21, counter 0 s.r.nFcntDown), (0x22, counter 1 s.r.aFcntDown),
   (0x23, counter 2 s.r.mcFcntDown[0]), (0x24, counter 3 s.r.mcFcntDown[1]), (0x25, counter 4 s.r.mcFcntDown[2]),
   (0x26, counter 5 s.r.mcFcntDown[3]), (0x27, s.r.fcntValid.setWidth 32), (0x28, s.r.lastDownFcnt)]
  ++ [(0x30, s.r.adrAckCnt), (0x31, s.r.ackRetries.setWidth 32), (0x32, s.r.ackRetryCnt.setWidth 32),
   (0x38, s.r.aggTimeOff), (0x39, s.r.lastAggTx), (0x3A, bit s.r.aggTxValid),
   (0x40, (slotCode s.r.rxSlot).setWidth 32), (0x41, s.status.code.setWidth 32), (0x42, s.evt.setWidth 32)]
  ++ timer 0x70 s.t.rx1 ++ timer 0x72 s.t.rx2 ++ timer 0x74 s.t.ackTo ++ timer 0x76 s.t.dcDelay
  ++ timer 0x78 s.t.beacon ++ timer 0x7A s.t.ping ++ timer 0x7C s.t.mcslot
  ++ [(0x80, bit s.b.run), (0x81, (beaconCode s.b.state).setWidth 32), (0x82, bit s.b.acqPending),
   (0x83, bit s.b.lastRxValid), (0x84, s.b.lastRx), (0x85, s.b.epoch), (0x86, s.b.timeS),
   (0x87, s.b.symto.setWidth 32)]
  ++ [(0x90, bit s.p.assigned), (0x91, s.p.periodicity.setWidth 32), (0x92, s.p.pingNb.setWidth 32),
   (0x93, s.p.pingPeriod.setWidth 32), (0x94, s.p.offset.setWidth 32), (0x95, s.p.nextN.setWidth 32),
   (0x96, s.p.symto.setWidth 32), (0x97, s.r.mcslotOwner.setWidth 32)]
  ++ entry 0 ++ entry 1 ++ entry 2 ++ entry 3

/-- The table of settable registers (46_system.md R252): the identifier, whether `v` is a legal value, and the
registers with the value in place; a downlink counter's valid bit is set with it. -/
def settableRegisters (r : Regs) (v : Word) : List (Nat × Bool × Regs) :=
  let valid := fun k : Nat => r.fcntValid ||| (1#6 <<< k)
  [(0x00, decide (v.toNat ≤ 1), { r with lwVariant := if v = 1 then .v11 else .v10 }),
   (0x02, decide (v.toNat ≤ 1), { r with joined := v == 1 }),
   (0x03, decide (v.toNat < 2 ^ 24), { r with netId := v.setWidth 24 }),
   (0x04, true, { r with devAddr := v }),
   (0x05, decide (v.toNat ≤ 1), { r with adrOn := v == 1 }),
   (0x10, true, { r with receiveDelay1 := v }),
   (0x11, true, { r with receiveDelay2 := v }),
   (0x12, true, { r with joinAcceptDelay1 := v }),
   (0x13, true, { r with joinAcceptDelay2 := v }),
   (0x14, decide (v.toNat < 256), { r with chDatarate := v.setWidth 8 }),
   (0x15, decide (v.toNat < 256), { r with chTxPower := v.setWidth 8 }),
   (0x16, decide (v.toNat < 256), { r with chDatarateDef := v.setWidth 8 }),
   (0x17, decide (v.toNat < 256), { r with chTxPowerDef := v.setWidth 8 }),
   (0x18, decide (1 ≤ v.toNat ∧ v.toNat < 2 ^ 16), { r with aggDcycle := v.setWidth 16 })]
  ++ [(0x20, true, { r with fcntUp := v }),
   (0x21, true, { r with nFcntDown := v, fcntValid := valid 0 }),
   (0x22, true, { r with aFcntDown := v, fcntValid := valid 1 }),
   (0x23, true, { r with mcFcntDown := r.mcFcntDown.set 0 v, fcntValid := valid 2 }),
   (0x24, true, { r with mcFcntDown := r.mcFcntDown.set 1 v, fcntValid := valid 3 }),
   (0x25, true, { r with mcFcntDown := r.mcFcntDown.set 2 v, fcntValid := valid 4 }),
   (0x26, true, { r with mcFcntDown := r.mcFcntDown.set 3 v, fcntValid := valid 5 }),
   (0x27, decide (v.toNat < 64), { r with fcntValid := v.setWidth 6 }),
   (0x30, true, { r with adrAckCnt := v })]

/-- The two pairs of registers the Region must accept a value for (R252). -/
def regionKinds : List (Nat × ParamKind) :=
  [(0x14, .datarate), (0x15, .txPower), (0x16, .datarate), (0x17, .txPower)]

end Sys2Proof.Machine
end

