-- ==== Sys2Proof/Certificates/Slice0/Obligations.lean ====
section
/-! DEFINITION. The statements for the provers. Each says what a numbered rule of spec/ says, or what a rule and
a named convention of the model say together; nothing here is proved. `answeredOk res s` and `failedWith st s` are
the state `s` with a new status and answer only, so an equation with one of them states the whole frame. -/

open Sys2Proof Sys2Proof.Machine

/-! ### The machine -/

/-- A step takes the next thing at the ports: an instruction runs as `exec` says, in the state whose port has lost
these bytes; with nothing there the block is idle (70_reset_and_hazards.md R313); parameters outside R324 are a
fault (93_implementation_defined.md U42, the model's form of it). The next step of `withFetchWord` runs the instruction
of the table word (log entry 1). -/
def Obligations.StepRunsDecodedInstruction : Prop :=
  (∀ (s : State) (p : Port) (bs : List Byte) (rest : List PortItem) (i : Instr),
    s.par.Ok → s.port = .bytes p bs :: rest → decode p bs = .ok i → step s = exec i { s with port := rest })
  ∧ (∀ s : State, s.par.Ok → s.port = [] → step s = .next s)
  ∧ (∀ s : State, ¬ s.par.Ok → step s = .fault .parametersOutOfRange)
  ∧ (∀ (s : State) (nbits w : Nat) (i : Instr),
      s.par.Ok → decodeTableWord nbits w = some i → step (s.withFetchWord nbits w) = exec i s)

/-- 60_exceptions.md R284: the status `ERR_ILLEGAL_CMD` answers exactly a code that is none of the 49. -/
def Obligations.IllegalCommandExactlyOutsideTable : Prop :=
  ∀ (s : State) (code : Byte) (ops : List Byte) (rest : List PortItem),
    s.par.Ok → s.port = .bytes .command (code :: ops) :: rest →
      (code.toNat ∉ commandCodes → step s = .next (failedWith .errIllegalCmd { s with port := rest }))
      ∧ (code.toNat ∈ commandCodes → ∀ t, step s = .next t → t.status ≠ .errIllegalCmd)

/-- A command cut short anywhere after its code lacks an operand: `ERR_NPE`, before every other test
(30_encoding.md R75, 60_exceptions.md R271, R286). A whole command with an operand's byte at a value above the operand's
width is out of range: `ERR_PARAM` (R75). For the stage byte of `SEC.DERIVE_MC` this is shown with the operands of a legal
stage behind it; that it holds whatever follows is the model's choice (log entry 25). -/
def Obligations.TruncatedCommandIsErrNpe : Prop :=
  ∀ (i : Instr) (s : State) (rest : List PortItem),
    i.wellFormed = true → portOf i = .command → s.par.Ok →
    (∀ n, 0 < n → n < (encode i).length → s.port = .bytes .command ((encode i).take n) :: rest →
      step s = .next (failedWith .errNpe { s with port := rest }))
    ∧ (∀ (j limit : Nat) (v : Byte), (j, limit) ∈ narrowOperands i → limit ≤ v.toNat →
        s.port = .bytes .command ((encode i).set j v) :: rest →
        step s = .next (failedWith .errParam { s with port := rest }))

/-- Every well-formed instruction, with every operand at every value, decodes from its own bytes to itself. -/
def Obligations.DecodeOfEncode : Prop :=
  ∀ i : Instr, i.wellFormed = true → decode (portOf i) (encode i) = .ok i

/-- In the wire layouts every accepted byte string is the encoding of what it decodes to: no bit is dropped
(30_encoding.md R62 to R72). -/
def Obligations.EncodeOfDecodedWire : Prop :=
  ∀ (l : Layout) (bs : List Byte) (i : Instr),
    decode (.wire l) bs = .ok i → i.wellFormed = true ∧ portOf i = .wire l ∧ encode i = bs

/-- A few words written out from the encodings of R61, R63 and R75. -/
def Obligations.SpecWordsDecode : Prop :=
  decode .command [0x50, 0x10, 0x27, 0x00, 0x00, 0x00] = .ok (.rxwTxDone 10000 false)
  ∧ decode .command [0x02, 0x04, 0xDA, 0x1B, 0x01, 0x26] = .ok (.mibSet 0x04 0x26011BDA)
  ∧ decode .command [0x25, 0x01, 0x02, 0x01, 0x00, 0x13, 0x00, 0x00, 0x01, 0x02, 0x03, 0x04, 0x05, 0x06, 0x07, 0x08,
      0xCD, 0xAB] = .ok (.secDeriveSession .v11 0x000102 0x000013 0x0102030405060708 0xABCD)
  ∧ decode .command [0x1A, 0x02, 0x02, 0x03, 0x33] = .ok (.framePlaceCmds [2, 3] 51)
  ∧ decode (.wire (.mtype .unconfirmedDataDown)) [0x7C] = .ok (.mtypeUnconfirmedDataDown 7)
  ∧ decode .command [0x07] = .error .illegalCommand

/-- 46_system.md R250 and 10_state.md R31: every register after `SYS.INIT` and the calls; the key slots and the
parameters stay, and so do the ports and the answers held ready (log entry 23). The buffers list nothing: that every byte
of `FD.FOPTS` and `FD.CFLIST` then reads as 0 like the rest of `FD` is the model's choice (log entry 7, DEDUCED); no byte
of `TXBUF`, `RXBUF` and `PLD` has a value (20_memory.md R53). (`path` is the model's record, log entry 20.) Power-on leaves the same
values: after `SYS.INIT` with the default parameters the state is that of power-on but for what lies outside the block,
the calls made and the answer. -/
def Obligations.SysInitValues : Prop :=
  (∀ s t : State, s.par = .default → exec .sysInit s = .next t →
    t = { State.reset with port := s.port, answer := [0x00], se := s.se, trace := t.trace, script := s.script })
  ∧ (∀ s : State, exec .sysInit s = .next { s with
    status := .ok
    answer := [0x00]
    fd := { mhdr := 0, joinEui := 0, devEui := 0, devNonce := 0, rejoinType := 0, rjCount := 0, netId := 0,
            joinNonce := 0, devAddr := 0, dlSettings := 0, rxDelay := 0, cflistPresent := false, fctrl := 0,
            fcnt := 0, fportPresent := false, fport := 0, pldLen := 0, mic := 0 }
    txLen := 0
    rxLen := 0
    mem := { tx := [], rx := [], pld := [], fopts := [], cflist := [] }
    evt := 0
    r := { lwVariant := .v10, deviceClass := .a, joined := false, netId := 0, devAddr := 0, adrOn := false,
           receiveDelay1 := s.par.receiveDelay1Def, receiveDelay2 := s.par.receiveDelay2Def,
           joinAcceptDelay1 := s.par.joinAcceptDelay1Def, joinAcceptDelay2 := s.par.joinAcceptDelay2Def,
           chDatarate := s.par.regionDefaultDatarate, chTxPower := s.par.regionDefaultTxPower,
           chDatarateDef := s.par.regionDefaultDatarate, chTxPowerDef := s.par.regionDefaultTxPower,
           aggDcycle := s.par.aggDcycleDef, fcntUp := 0, nFcntDown := 0, aFcntDown := 0,
           mcFcntDown := #v[0, 0, 0, 0], fcntValid := 0, lastDownFcnt := 0, adrAckCnt := 0, ackRetries := 1,
           ackRetryCnt := 0, aggTimeOff := 0, lastAggTx := 0, aggTxValid := false, rxSlot := .none,
           mcslotOwner := 0 }
    mc := Vector.replicate 4 { valid := false, addr := 0, freq := 0, datarate := 0, periodicity := 0, pingNb := 0,
                               pingPeriod := 0, offset := 0, nextN := 0 }
    t := { rx1 := ⟨false, 0⟩, rx2 := ⟨false, 0⟩, ackTo := ⟨false, 0⟩, dcDelay := ⟨false, 0⟩, beacon := ⟨false, 0⟩,
           ping := ⟨false, 0⟩, mcslot := ⟨false, 0⟩ }
    b := { run := false, state := .acquisition, acqPending := false, lastRxValid := false, lastRx := 0, epoch := 0,
           timeS := 0, symto := s.par.bcnSymtoDef }
    p := { assigned := false, periodicity := 0, pingNb := 128, pingPeriod := 32, offset := 0, nextN := 0,
           symto := s.par.pingSymtoDef }
    trace := s.trace ++ [.regionInitDefaults, .regionDefaultDatarate, .regionDefaultTxPower, .radioSleep]
    path := [] })
  ∧ ∀ s t : State, exec .sysInit s = .next t ∨ t = State.reset → ∀ j,
    t.byteOf .fopts j = some 0 ∧ t.byteOf .cflist j = some 0
    ∧ t.byteOf .tx j = none ∧ t.byteOf .rx j = none ∧ t.byteOf .pld j = none

/-- The state at power-on meets the three invariants. -/
def Obligations.ResetMeetsInvariants : Prop :=
  InvCore State.reset ∧ InvTracker State.reset ∧ InvSlots State.reset

/-- Every step keeps the core invariant: canonical buffers, `1 <= ACK_RETRIES <= 8` and the count below it,
`AGG_DCYCLE >= 1`, reserved flags 0 (10_state.md R15, R30, 43_dutycycle_adr.md R185). -/
def Obligations.StepKeepsCore : Prop :=
  ∀ s t : State, InvCore s → step s = .next t → InvCore t

/-- Every step keeps the tracker invariant: the tracker rests, classes B and C exclude each other, slot timers run
only in class B in `IDLE` (45_classb_beacon.md R216, R232, 46_system.md R253). -/
def Obligations.StepKeepsTracker : Prop :=
  ∀ s t : State, InvTracker s → step s = .next t → InvTracker t

/-- Every step keeps the slot invariant: the ping and multicast slot registers fit their periodicity, an armed
multicast timer has a slot to open (10_state.md R22, R26, 45_classb_beacon.md R222, R225 to R227). -/
def Obligations.StepKeepsSlots : Prop :=
  ∀ s t : State, InvSlots s → step s = .next t → InvSlots t

/-- 60_exceptions.md R285: no partial commit. What a failed command can have done is call collaborators, and store
keys before the failure where it derives keys. -/
def Obligations.FailedCommandChangesNothing : Prop :=
  ∀ (i : Instr) (s t : State), portOf i = .command → exec i s = .next t → t.status.completed = false →
    { t with status := s.status, answer := s.answer, trace := s.trace, script := s.script, se := s.se } = s
    ∧ (∃ calls, t.trace = s.trace ++ calls)
    ∧ (derivesKeys i = false → t.se = s.se)

/-- No instruction but the eight `SEC.*` commands depends on a key or changes one, wire rows and event posts
included (20_memory.md R48, 41_security_engine.md R120). -/
def Obligations.OtherInstructionsIgnoreKeys : Prop :=
  ∀ (i : Instr) (s : State) (k : KeyStore), callsSe i = false →
    (∀ t, exec i s = .next t → t.se = s.se ∧ exec i { s with se := k } = .next { t with se := k })
    ∧ (∀ f, exec i s = .fault f → exec i { s with se := k } = .fault f)

/-- Every command is answered: by one status, first in the result record (30_encoding.md R60, R75), unless it reads
a byte of `RXBUF` or `PLD` that has no value (20_memory.md R53); it never touches the parameters or the ports. Such a
read is a fault, as R53 says: shown on its own example, `SER.DATA` with a payload byte nothing has written, when the
frame fits. That the arrays of the descriptor always have values is the model's choice (log entry 7, DEDUCED). The
numbers of the statuses are those of 60_exceptions.md R270. -/
def Obligations.CommandsAlwaysAnswer : Prop :=
  (∀ (i : Instr) (s : State), portOf i = .command →
    (∃ t, exec i s = .next t ∧ t.answer.head? = some t.status.code ∧ t.par = s.par ∧ t.port = s.port)
    ∨ (exec i s = .fault .unwrittenByte ∧ readsBuffers i = true))
  ∧ (∀ (cap : Byte) (s : State),
    s.read .pld 0 s.fd.pldLen.toNat = none →
    (s.fd.pldLen = 0 ∨ s.fd.fportPresent = true) → cap.toNat ≤ s.par.phyMax →
    12 + s.fd.fctrl.toNat % 16 + (if s.fd.fportPresent then 1 else 0) + s.fd.pldLen.toNat ≤ cap.toNat →
      exec (.serData cap) s = .fault .unwrittenByte)
  ∧ (∀ (s : State) (off n : Nat), (s.read .fopts off n).isSome = true ∧ (s.read .cflist off n).isSome = true)
  ∧ ∀ st : Status, (st, st.code) ∈ [(.ok, 0x00), (.errNpe, 0x01), (.errParam, 0x02), (.errBufSize, 0x03),
      (.errParse, 0x04), (.errSeFailed, 0x05), (.failMic, 0x06), (.failFcntSmaller, 0x07), (.failFcntDuplicated, 0x08),
      (.failMaxGap, 0x09), (.failAddress, 0x0A), (.failMcFormat, 0x0B), (.failAlreadyJoined, 0x0C),
      (.errNotJoined, 0x0D), (.errBusy, 0x0E), (.errDutycycleRestricted, 0x0F), (.errNoFreeChannel, 0x10),
      (.infoSkippedAppData, 0x11), (.failAckExhausted, 0x12), (.errIllegalCmd, 0x13)]

/-! ### Frame codec -/

/-- The frames of 40_frame_codec.md R101 to R103 under the capacity contract. A join-accept with a channel list lays out
the 16 bytes of `FD.CFLIST`. That these always have values, written or not, is the model's choice (log entry 7,
DEDUCED). -/
def Obligations.SerializeJoinFrames : Prop :=
  ∀ (cap : Byte) (s : State),
    SerContract (exec (.serJoinreq cap) s) cap
      ([s.fd.mhdr] ++ revEui s.fd.joinEui ++ revEui s.fd.devEui ++ le16 s.fd.devNonce ++ le32 s.fd.mic) s
    ∧ (s.fd.rejoinType = 0 ∨ s.fd.rejoinType = 2 → SerContract (exec (.serRejoin cap) s) cap
        ([s.fd.mhdr, s.fd.rejoinType] ++ le24 s.fd.netId ++ revEui s.fd.devEui ++ le16 s.fd.rjCount
          ++ le32 s.fd.mic) s)
    ∧ (s.fd.rejoinType = 1 → SerContract (exec (.serRejoin cap) s) cap
        ([s.fd.mhdr, s.fd.rejoinType] ++ revEui s.fd.joinEui ++ revEui s.fd.devEui ++ le16 s.fd.rjCount
          ++ le32 s.fd.mic) s)
    ∧ (2 < s.fd.rejoinType.toNat → exec (.serRejoin cap) s = .next (failedWith .errParam s))
    ∧ (s.fd.cflistPresent = false → SerContract (exec (.serJoinacc cap) s) cap
        ([s.fd.mhdr] ++ le24 s.fd.joinNonce ++ le24 s.fd.netId ++ le32 s.fd.devAddr
          ++ [s.fd.dlSettings, s.fd.rxDelay] ++ le32 s.fd.mic) s)
    ∧ (∃ l, s.read .cflist 0 16 = some l ∧ l.length = 16 ∧ (s.fd.cflistPresent = true →
        SerContract (exec (.serJoinacc cap) s) cap
          ([s.fd.mhdr] ++ le24 s.fd.joinNonce ++ le24 s.fd.netId ++ le32 s.fd.devAddr
            ++ [s.fd.dlSettings, s.fd.rxDelay] ++ l ++ le32 s.fd.mic) s))

/-- The frame of 40_frame_codec.md R104 under the capacity contract, for a payload whose bytes have values (20_memory.md
R53). That the options always have values, written or not, is the model's choice (log entry 7, DEDUCED). -/
def Obligations.SerializeDataFrame : Prop :=
  ∀ (cap : Byte) (s : State),
    (s.fd.pldLen ≠ 0 → s.fd.fportPresent = false → exec (.serData cap) s = .next (failedWith .errParam s))
    ∧ (∃ fo, s.read .fopts 0 (s.fd.fctrl.toNat % 16) = some fo ∧ fo.length = s.fd.fctrl.toNat % 16 ∧
        ∀ pl, (s.fd.pldLen = 0 ∨ s.fd.fportPresent = true) → s.read .pld 0 s.fd.pldLen.toNat = some pl →
        SerContract (exec (.serData cap) s) cap
          ([s.fd.mhdr] ++ le32 s.fd.devAddr ++ [s.fd.fctrl] ++ le16 s.fd.fcnt ++ fo
            ++ (if s.fd.fportPresent then [s.fd.fport] else []) ++ pl ++ le32 s.fd.mic) s)

/-- 40_frame_codec.md R105 to R107: the registers written are the ones listed and no others, the wrong length or type
is `ERR_PARSE`, so is a length beyond the end of `RXBUF` (20_memory.md R53), and a join-accept without a list leaves
the bytes of `FD.CFLIST`. -/
def Obligations.ParseJoinFrames : Prop :=
  ∀ s : State,
    (s.par.phyMax < s.rxLen.toNat → exec .parseJoinreq s = .next (failedWith .errParse s)
      ∧ exec .parseRejoin s = .next (failedWith .errParse s) ∧ exec .parseJoinacc s = .next (failedWith .errParse s))
    ∧ (s.rxLen ≠ 23 → exec .parseJoinreq s = .next (failedWith .errParse s))
    ∧ (∀ b, s.rxLen = 23 → s.rxLen.toNat ≤ s.par.phyMax → s.read .rx 0 23 = some b →
        exec .parseJoinreq s = .next { answeredOk [] s with fd := { s.fd with
          mhdr := byteAt b 0, joinEui := BitVec.ofNat 64 (unLe (slice b 1 8)),
          devEui := BitVec.ofNat 64 (unLe (slice b 9 8)), devNonce := BitVec.ofNat 16 (unLe (slice b 17 2)),
          mic := BitVec.ofNat 32 (unLe (slice b 19 4)) } })
    ∧ (s.rxLen.toNat < 2 → exec .parseRejoin s = .next (failedWith .errParse s))
    ∧ (∀ ty, 2 ≤ s.rxLen.toNat → s.byteOf .rx 1 = some ty →
        ¬ ((ty = 0 ∨ ty = 2) ∧ s.rxLen = 19) → ¬ (ty = 1 ∧ s.rxLen = 24) →
        exec .parseRejoin s = .next (failedWith .errParse s))
    ∧ (∀ b, s.rxLen = 19 → s.rxLen.toNat ≤ s.par.phyMax → s.read .rx 0 19 = some b → byteAt b 1 = 0 ∨ byteAt b 1 = 2 →
        exec .parseRejoin s = .next { answeredOk [] s with fd := { s.fd with
          mhdr := byteAt b 0, rejoinType := byteAt b 1, netId := BitVec.ofNat 24 (unLe (slice b 2 3)),
          devEui := BitVec.ofNat 64 (unLe (slice b 5 8)), rjCount := BitVec.ofNat 16 (unLe (slice b 13 2)),
          mic := BitVec.ofNat 32 (unLe (slice b 15 4)) } })
    ∧ (∀ b, s.rxLen = 24 → s.rxLen.toNat ≤ s.par.phyMax → s.read .rx 0 24 = some b → byteAt b 1 = 1 →
        exec .parseRejoin s = .next { answeredOk [] s with fd := { s.fd with
          mhdr := byteAt b 0, rejoinType := 1, joinEui := BitVec.ofNat 64 (unLe (slice b 2 8)),
          devEui := BitVec.ofNat 64 (unLe (slice b 10 8)), rjCount := BitVec.ofNat 16 (unLe (slice b 18 2)),
          mic := BitVec.ofNat 32 (unLe (slice b 20 4)) } })
    ∧ (s.rxLen ≠ 17 → s.rxLen ≠ 33 → exec .parseJoinacc s = .next (failedWith .errParse s))
    ∧ (∀ b, s.rxLen = 17 ∨ s.rxLen = 33 → s.rxLen.toNat ≤ s.par.phyMax → s.read .rx 0 s.rxLen.toNat = some b →
        ∃ t, exec .parseJoinacc s = .next t
          ∧ { t with mem := s.mem } = { answeredOk [] s with fd := { s.fd with
              mhdr := byteAt b 0, joinNonce := BitVec.ofNat 24 (unLe (slice b 1 3)),
              netId := BitVec.ofNat 24 (unLe (slice b 4 3)), devAddr := BitVec.ofNat 32 (unLe (slice b 7 4)),
              dlSettings := byteAt b 11, rxDelay := byteAt b 12, cflistPresent := s.rxLen == 33,
              mic := BitVec.ofNat 32 (unLe (slice b (s.rxLen.toNat - 4) 4)) } }
          ∧ Stores s t (only .cflist (if s.rxLen = 33 then slice b 13 16 else [])))

/-- 40_frame_codec.md R108: options, port and payload are what stands between the header and the trailer; bytes of
`FD.FOPTS` and `PLD` beyond them stay. A length beyond the end of `RXBUF` is `ERR_PARSE` (20_memory.md R53). -/
def Obligations.ParseDataFrame : Prop :=
  ∀ s : State,
    (s.rxLen.toNat < 12 ∨ s.par.phyMax < s.rxLen.toNat → exec .parseData s = .next (failedWith .errParse s))
    ∧ (∀ c, 12 ≤ s.rxLen.toNat → s.byteOf .rx 5 = some c → s.rxLen.toNat < 12 + c.toNat % 16 →
        exec .parseData s = .next (failedWith .errParse s))
    ∧ (∀ b, s.rxLen.toNat ≤ s.par.phyMax → s.read .rx 0 s.rxLen.toNat = some b →
        12 + (byteAt b 5).toNat % 16 ≤ s.rxLen.toNat →
        let n := (byteAt b 5).toNat % 16
        let rem := s.rxLen.toNat - 12 - n
        ∃ t, exec .parseData s = .next t
          ∧ { t with mem := s.mem } = { answeredOk [] s with fd := { s.fd with
              mhdr := byteAt b 0, devAddr := BitVec.ofNat 32 (unLe (slice b 1 4)), fctrl := byteAt b 5,
              fcnt := BitVec.ofNat 16 (unLe (slice b 6 2)), fportPresent := decide (1 ≤ rem),
              fport := if 1 ≤ rem then byteAt b (8 + n) else 0, pldLen := BitVec.ofNat 8 (rem - 1),
              mic := BitVec.ofNat 32 (unLe (slice b (s.rxLen.toNat - 4) 4)) } }
          ∧ Stores s t (fun
              | .fopts => slice b 8 n
              | .pld => slice b (9 + n) (rem - 1)
              | _ => []))

/-- The first half of the round-trip law of 40_frame_codec.md R110: what a `SER` command has laid out, copied to
`RXBUF`, parses back to the descriptor, the options, the list and the payload it came from; `FD.FPORT` only when it
is present. -/
def Obligations.SerializeThenParse : Prop :=
  ∀ (cap : Byte) (s t : State) (msg : List Byte), t.status = .ok → t.read .tx 0 t.txLen.toNat = some msg →
    let u : State := { t.write .rx 0 msg with rxLen := t.txLen }
    (exec (.serJoinreq cap) s = .next t → ∃ v, exec .parseJoinreq u = .next v ∧ v.status = .ok ∧ v.fd = s.fd)
    ∧ (exec (.serRejoin cap) s = .next t → ∃ v, exec .parseRejoin u = .next v ∧ v.status = .ok ∧ v.fd = s.fd)
    ∧ (exec (.serJoinacc cap) s = .next t → ∃ v, exec .parseJoinacc u = .next v ∧ v.status = .ok ∧ v.fd = s.fd
        ∧ v.read .cflist 0 16 = s.read .cflist 0 16)
    ∧ (exec (.serData cap) s = .next t → ∃ v, exec .parseData u = .next v ∧ v.status = .ok
        ∧ v.fd = { s.fd with fport := if s.fd.fportPresent then s.fd.fport else 0 }
        ∧ v.read .fopts 0 (s.fd.fctrl.toNat % 16) = s.read .fopts 0 (s.fd.fctrl.toNat % 16)
        ∧ v.read .pld 0 s.fd.pldLen.toNat = s.read .pld 0 s.fd.pldLen.toNat)

/-- The second half of R110: what a `PARSE` command has accepted, the matching `SER` command lays out again, byte for
byte. -/
def Obligations.ParseThenSerialize : Prop :=
  ∀ (cap : Byte) (s t : State) (b : List Byte),
    s.read .rx 0 s.rxLen.toNat = some b → t.status = .ok → s.rxLen.toNat ≤ cap.toNat → cap.toNat ≤ s.par.phyMax →
      (exec .parseJoinreq s = .next t → ∃ u, exec (.serJoinreq cap) t = .next u ∧ u.status = .ok
        ∧ u.txLen = s.rxLen ∧ u.read .tx 0 s.rxLen.toNat = some b)
      ∧ (exec .parseRejoin s = .next t → ∃ u, exec (.serRejoin cap) t = .next u ∧ u.status = .ok
        ∧ u.txLen = s.rxLen ∧ u.read .tx 0 s.rxLen.toNat = some b)
      ∧ (exec .parseJoinacc s = .next t → ∃ u, exec (.serJoinacc cap) t = .next u ∧ u.status = .ok
        ∧ u.txLen = s.rxLen ∧ u.read .tx 0 s.rxLen.toNat = some b)
      ∧ (exec .parseData s = .next t → ∃ u, exec (.serData cap) t = .next u ∧ u.status = .ok
        ∧ u.txLen = s.rxLen ∧ u.read .tx 0 s.rxLen.toNat = some b)

/-- 40_frame_codec.md R109, with the result codes kind, direction, confirmed; and R111. A `RXBUF` without bytes has no
frame (20_memory.md R53). -/
def Obligations.ClassifyAndPortCheck : Prop :=
  ∀ (port : Byte) (compliance : Bool) (s : State),
    (s.rxLen = 0 ∨ s.par.phyMax = 0 → exec .frameClassify s = .next (failedWith .errParse s))
    ∧ (∀ h, s.rxLen ≠ 0 → 1 ≤ s.par.phyMax → s.byteOf .rx 0 = some h →
        exec .frameClassify s = .next
          (if h.toNat % 4 ≠ 0 then failedWith .errParse s
           else answeredOk ([[0, 0, 0], [1, 1, 0], [2, 0, 0], [2, 1, 0], [2, 0, 1], [2, 1, 1], [3, 0, 0],
             [4, 0, 0]].getD (h.toNat / 32) []) s))
    ∧ exec (.portCheck port compliance) s = .next
      (if 1 ≤ port.toNat ∧ port.toNat ≤ 223 then answeredOk [0] s
       else if port = 224 ∧ compliance = true then answeredOk [1] s
       else failedWith .errParam s)

/-- 40_frame_codec.md R113 and 42_counters.md R168: the lowest valid multicast entry with the address wins; the
device's own address only after them. -/
def Obligations.FrameMatchAddr : Prop :=
  ∀ s : State,
    (∀ h : BitVec 2, (at4 s.mc h).valid = true → (at4 s.mc h).addr = s.fd.devAddr →
      (∀ j : BitVec 2, j.toNat < h.toNat → ¬ ((at4 s.mc j).valid = true ∧ (at4 s.mc j).addr = s.fd.devAddr)) →
        exec .frameMatchAddr s = .next
          (if s.fd.fctrl.getLsbD 5 = true ∨ s.fd.fctrl.getLsbD 6 = true then failedWith .failMcFormat s
           else answeredOk ([BitVec.ofNat 8 (1 + h.toNat)] ++ le32 s.fd.devAddr ++ [BitVec.ofNat 8 (2 + h.toNat)]) s))
    ∧ ((∀ h : BitVec 2, ¬ ((at4 s.mc h).valid = true ∧ (at4 s.mc h).addr = s.fd.devAddr)) →
        exec .frameMatchAddr s = .next
          (if s.r.joined = true ∧ s.r.devAddr = s.fd.devAddr then
             answeredOk ([0] ++ le32 s.fd.devAddr
               ++ [if s.r.lwVariant = .v11 ∧ s.fd.fportPresent = true ∧ s.fd.fport ≠ 0 then 1 else 0]) s
           else failedWith .failAddress s))

/-- 40_frame_codec.md R112, for the strings its operand list allows (`0 <= c <= PHY_MAX`). -/
def Obligations.FramePlaceCmds : Prop :=
  ∀ (cmds : List Byte) (maxPld : Byte) (s : State), cmds.length ≤ s.par.phyMax → s.par.phyMax ≤ 255 →
    (cmds.length = 0 → exec (.framePlaceCmds cmds maxPld) s = .next
      { answeredOk [0] s with fd := { s.fd with fctrl := s.fd.fctrl &&& 0xF0 } })
    ∧ (1 ≤ cmds.length → cmds.length ≤ 15 → ∃ t, exec (.framePlaceCmds cmds maxPld) s = .next t
      ∧ { t with mem := s.mem } = { answeredOk [1] s with
          fd := { s.fd with fctrl := (s.fd.fctrl &&& 0xF0) ||| BitVec.ofNat 8 cmds.length } }
      ∧ Stores s t (only .fopts cmds))
    ∧ (16 ≤ cmds.length → maxPld.toNat < cmds.length →
        exec (.framePlaceCmds cmds maxPld) s = .next (failedWith .errBufSize s))
    ∧ (16 ≤ cmds.length → cmds.length ≤ maxPld.toNat → ∃ t, exec (.framePlaceCmds cmds maxPld) s = .next t
      ∧ { t with mem := s.mem } = { s with
          status := if 0 < s.fd.pldLen.toNat then .infoSkippedAppData else .ok
          answer := [if 0 < s.fd.pldLen.toNat then 0x11 else 0x00, 2]
          fd := { s.fd with pldLen := BitVec.ofNat 8 cmds.length, fport := 0, fportPresent := true,
                            fctrl := s.fd.fctrl &&& 0xF0 } }
      ∧ Stores s t (only .pld cmds))

/-! ### Security engine

`SeAccepts calls s` is the hypothesis that the Secure Element accepts these calls in this order, `SeFailsAt calls n s`
that it accepts the first `n` and the next one fails, refused or on an empty slot (R121). The values it gives
are those of the functions the parameters choose: AES-128 and AES-CMAC in the default content, else free functions of
the key and the arguments (R121, log entry 16); every statement holds for both. A key `k` for which `∀ x, s.se.get slot = some x → x = k` is the key of a slot
that may be empty. The answers held ready may shrink: `script` is left open. -/

/-- 41_security_engine.md R128: the counter-mode keystream byte by byte, one call for each block begun and none for the
empty string; a refused call or an empty slot ends it; and applied twice it gives the string back (log entry 16). -/
def Obligations.PayloadCryptKeystream : Prop :=
  ∀ (slot : KeySlot) (down : Bool) (addr fcnt : Word) (x : List Byte) (s : State), x.length ≤ 255 →
    let dir : Byte := if down then 0x01 else 0x00
    let calls := payloadCalls slot dir addr fcnt x
    (∀ k, s.se.get slot = some k → SeAccepts calls s →
      ∃ s', payloadCrypt slot down addr fcnt x s = (some (cryptedPayload s.par k dir addr fcnt x), s')
        ∧ { s' with script := s.script } = { s with trace := s.trace ++ calls })
    ∧ (x = [] → payloadCrypt slot down addr fcnt x s = (some [], s))
    ∧ (∀ k, s.se.get slot = some k → ¬ SeAccepts calls s → (payloadCrypt slot down addr fcnt x s).1 = none)
    ∧ (s.se.get slot = none → x ≠ [] → (payloadCrypt slot down addr fcnt x s).1 = none)
    ∧ (∀ k, cryptedPayload s.par k dir addr fcnt (cryptedPayload s.par k dir addr fcnt x) = x)

/-- 41_security_engine.md R131, the frame a secured uplink is: payload and options encrypted, the MIC of its variant,
the counter committed, `PLD` and `FD.FOPTS` still in clear; a call that fails, refused or on an empty slot, is
`ERR_SE_FAILED` with nothing changed (log entry 16). -/
def Obligations.SecUplinkSecures : Prop :=
  ∀ (counter : Word) (dr ch cap : Byte) (s : State) (pl f : List Byte) (kE kN kF kS : Key),
    s.r.joined = true → 1 ≤ cap.toNat → cap.toNat ≤ s.par.phyMax → s.r.fcntUp.toNat ≤ counter.toNat →
    (s.fd.pldLen = 0 ∨ s.fd.fportPresent = true) →
    12 + s.fd.fctrl.toNat % 16 + (if s.fd.fportPresent then 1 else 0) + s.fd.pldLen.toNat ≤ cap.toNat →
    s.read .pld 0 s.fd.pldLen.toNat = some pl → s.read .fopts 0 (s.fd.fctrl.toNat % 16) = some f →
    let a := s.fd.devAddr
    let slotE : KeySlot := if s.fd.fport = 0 then .nwkSEncKey else .appSKey
    let v11 := s.r.lwVariant = .v11
    (∀ x, s.se.get slotE = some x → x = kE) → (∀ x, s.se.get .nwkSEncKey = some x → x = kN) →
    (∀ x, s.se.get .fNwkSIntKey = some x → x = kF) → (∀ x, s.se.get .sNwkSIntKey = some x → x = kS) →
    let ct := cryptedPayload s.par kE 0x00 a counter pl
    let fo := if v11 then cryptedFopts s.par kN 0x00 a counter f else f
    let msg := [s.fd.mhdr] ++ le32 a ++ [s.fd.fctrl] ++ le16 (counter.setWidth 16) ++ fo
      ++ (if s.fd.fportPresent then [s.fd.fport] else []) ++ ct
    let conf : Half := if s.fd.fctrl.getLsbD 5 = true then s.r.lastDownFcnt.setWidth 16 else 0
    let b0 := authBlock 0x00 0x00 0x00 a counter msg.length 0
    let b1 := authBlock 0x00 dr ch a counter msg.length conf
    let mic : Word := if v11 then (tag32 s.par kF (some b0) msg).setWidth 16 ++ (tag32 s.par kS (some b1) msg).setWidth 16
      else tag32 s.par kF (some b0) msg
    let calls := payloadCalls slotE 0x00 a counter pl
      ++ (if v11 ∧ f ≠ [] then [.seEcb (counterBlock 0x00 a counter 0) .nwkSEncKey] else [])
      ++ (if v11 then [.seCmac (some (b1)) msg .sNwkSIntKey] else []) ++ [.seCmac (some b0) msg .fNwkSIntKey]
    (SeAccepts calls s → ¬ UsesEmptySlot calls s → ∃ t, exec (.secUplink counter dr ch cap) s = .next t
      ∧ { t with mem := s.mem, script := s.script } = { answeredOk [] s with
          fd := { s.fd with fcnt := counter.setWidth 16, mic := mic }
          txLen := BitVec.ofNat 8 (msg.length + 4)
          r := { s.r with fcntUp := counter }
          trace := s.trace ++ calls }
      ∧ Stores s t (only .tx (msg ++ le32 mic)))
    ∧ (∀ n, SeFailsAt calls n s → ∃ t, exec (.secUplink counter dr ch cap) s = .next t
        ∧ { t with script := s.script } = { failedWith .errSeFailed s with trace := s.trace ++ calls.take (n + 1) })

/-- 41_security_engine.md R131 and 60_exceptions.md R286: the refusals of `SEC.UPLINK` before any call, in the order
tested. -/
def Obligations.SecUplinkRefusals : Prop :=
  ∀ (counter : Word) (dr ch cap : Byte) (s : State),
    let run := exec (.secUplink counter dr ch cap) s
    let need := 12 + s.fd.fctrl.toNat % 16 + (if s.fd.fportPresent then 1 else 0) + s.fd.pldLen.toNat
    (s.r.joined = false → run = .next (failedWith .errNotJoined s))
    ∧ (s.r.joined = true → (cap.toNat = 0 ∨ s.par.phyMax < cap.toNat) → run = .next (failedWith .errParam s))
    ∧ (s.r.joined = true → 1 ≤ cap.toNat → cap.toNat ≤ s.par.phyMax → counter.toNat < s.r.fcntUp.toNat →
        run = .next (failedWith .failFcntSmaller s))
    ∧ (s.r.joined = true → 1 ≤ cap.toNat → cap.toNat ≤ s.par.phyMax → s.r.fcntUp.toNat ≤ counter.toNat →
        s.fd.pldLen ≠ 0 → s.fd.fportPresent = false → run = .next (failedWith .errParam s))
    ∧ (s.r.joined = true → 1 ≤ cap.toNat → cap.toNat ≤ s.par.phyMax → s.r.fcntUp.toNat ≤ counter.toNat →
        (s.fd.pldLen = 0 ∨ s.fd.fportPresent = true) → cap.toNat < need → run = .next (failedWith .errBufSize s))

/-- The uplink counter law (42_counters.md R162): no instruction but `SYS.INIT`, `FCNT.RESET`, `MIB.SET` and a
successful `SEC.JOINACC` ever lowers `R.FCNT_UP`; `SEC.UPLINK` commits its operand exactly when it answers `OK`, and,
joined and with a legal capacity, answers `FAIL_FCNT_SMALLER` exactly for a smaller one. -/
def Obligations.UplinkCounterLaw : Prop :=
  ∀ (i : Instr) (s t : State), exec i s = .next t →
    (i ≠ .sysInit → (∀ a b, i ≠ .fcntReset a b) → (∀ a b, i ≠ .mibSet a b) →
      ((∃ a b c, i = .secJoinacc a b c) → t.status ≠ .ok) → s.r.fcntUp.toNat ≤ t.r.fcntUp.toNat)
    ∧ (∀ c dr ch cap, i = .secUplink c dr ch cap →
        (t.status = .ok → t.r.fcntUp = c) ∧ (t.status ≠ .ok → t.r.fcntUp = s.r.fcntUp)
        ∧ (t.status = .failFcntSmaller → c.toNat < s.r.fcntUp.toNat)
        ∧ (s.r.joined = true → 1 ≤ cap.toNat → cap.toNat ≤ s.par.phyMax → c.toNat < s.r.fcntUp.toNat →
            t.status = .failFcntSmaller))

/-- 41_security_engine.md R132: an accepted downlink. Integrity is verified on the frame as received, then payload and
(unicast 1.1) options are decrypted, then the counter, its valid bit and the ADR counter are committed (log entry
16). -/
def Obligations.SecDownlinkAccepts : Prop :=
  ∀ (ak : BitVec 3) (address : Word) (ck : BitVec 3) (cand : Word) (s : State) (b : List Byte) (kI kE kN : Key),
    (ak = 0 → ck.toNat ≤ 1) → ak.toNat ≤ 4 →
    (ak ≠ 0 → ck.toNat = ak.toNat + 1 ∧ (at4 s.mc (BitVec.ofNat 2 (ak.toNat - 1))).valid = true) →
    (ak = 0 → s.r.joined = true) →
    s.rxLen.toNat ≤ s.par.phyMax → s.read .rx 0 s.rxLen.toNat = some b →
    12 + (byteAt b 5).toNat % 16 ≤ s.rxLen.toNat →
    let n := (byteAt b 5).toNat % 16
    let rem := s.rxLen.toNat - 12 - n
    let msg := b.take (s.rxLen.toNat - 4)
    let port0 := 1 ≤ rem ∧ byteAt b (8 + n) = 0
    let h : BitVec 2 := BitVec.ofNat 2 (ak.toNat - 1)
    let v11u := s.r.lwVariant = .v11 ∧ ak = 0
    let conf : Half := if v11u ∧ (byteAt b 5).getLsbD 5 = true then s.r.fcntUp.setWidth 16 else 0
    let slotI : KeySlot := if ak = 0 then .sNwkSIntKey else .mcNwkSKey h
    let slotE : KeySlot := if ak = 0 then (if port0 then .nwkSEncKey else .appSKey)
      else (if port0 then .mcNwkSKey h else .mcAppSKey h)
    let payload := slice b (9 + n) (rem - 1)
    let fopts := slice b 8 n
    let b0 := authBlock 0x01 0x00 0x00 address cand (s.rxLen.toNat - 4) conf
    let calls := [Call.seCmac (some b0) msg slotI] ++ payloadCalls slotE 0x01 address cand payload
      ++ (if v11u ∧ fopts ≠ [] then [.seEcb (counterBlock 0x01 address cand 0) .nwkSEncKey] else [])
    BitVec.ofNat 32 (unLe (slice b 1 4)) = address → cand.setWidth 16 = BitVec.ofNat 16 (unLe (slice b 6 2)) →
    (streamValid s.r.fcntValid ck = true → (lastFcnt s.r ck).toNat < cand.toNat) →
    s.se.get slotI = some kI → (payload ≠ [] → s.se.get slotE = some kE) →
    (v11u → fopts ≠ [] → s.se.get .nwkSEncKey = some kN) →
    tag32 s.par kI (some b0) msg = BitVec.ofNat 32 (unLe (slice b (s.rxLen.toNat - 4) 4)) →
    SeAccepts calls s →
      ∃ t, exec (.secDownlink ak address ck cand) s = .next t
        ∧ { t with mem := s.mem, script := s.script } =
          { answeredOk (le32 cand ++ [if ak = 0 then 0 else 1]) s with
            fd := { s.fd with
              mhdr := byteAt b 0, devAddr := address, fctrl := byteAt b 5, fcnt := cand.setWidth 16,
              fportPresent := decide (1 ≤ rem), fport := if 1 ≤ rem then byteAt b (8 + n) else 0,
              pldLen := BitVec.ofNat 8 (rem - 1), mic := tag32 s.par kI (some b0) msg }
            r := { setLastFcnt s.r ck cand with
              fcntValid := s.r.fcntValid ||| (1#6 <<< ck.toNat), lastDownFcnt := cand, adrAckCnt := 0 }
            trace := s.trace ++ calls }
        ∧ Stores s t (fun
            | .fopts => if v11u then cryptedFopts s.par kN 0x01 address cand fopts else fopts
            | .pld => cryptedPayload s.par kE 0x01 address cand payload
            | _ => [])

/-- 41_security_engine.md R132 and 60_exceptions.md R286: the refusals of `SEC.DOWNLINK`, in the order tested; the
counter is tested before the Secure Element is called, a MIC that does not match is `FAIL_MIC` before anything is
decrypted, and a call that fails, refused or on an empty slot (R121), is `ERR_SE_FAILED` with nothing changed (log entry
16). -/
def Obligations.SecDownlinkRefusals : Prop :=
  ∀ (ak : BitVec 3) (address : Word) (ck : BitVec 3) (cand : Word) (s : State),
    let run := exec (.secDownlink ak address ck cand) s
    let h : BitVec 2 := BitVec.ofNat 2 (ak.toNat - 1)
    let kinds := ak.toNat ≤ 4 ∧ (ak = 0 → ck.toNat ≤ 1)
      ∧ (ak ≠ 0 → ck.toNat = ak.toNat + 1 ∧ (at4 s.mc h).valid = true)
    (¬ kinds → run = .next (failedWith .errParam s))
    ∧ (kinds → ak = 0 → s.r.joined = false → run = .next (failedWith .errNotJoined s))
    ∧ (kinds → (ak = 0 → s.r.joined = true) → s.rxLen.toNat < 12 ∨ s.par.phyMax < s.rxLen.toNat →
        run = .next (failedWith .errParse s))
    ∧ (∀ b, kinds → (ak = 0 → s.r.joined = true) → 12 ≤ s.rxLen.toNat → s.rxLen.toNat ≤ s.par.phyMax →
        s.read .rx 0 s.rxLen.toNat = some b →
        let addr : Word := BitVec.ofNat 32 (unLe (slice b 1 4))
        let fcnt : Half := BitVec.ofNat 16 (unLe (slice b 6 2))
        (s.rxLen.toNat < 12 + (byteAt b 5).toNat % 16 → run = .next (failedWith .errParse s))
        ∧ (12 + (byteAt b 5).toNat % 16 ≤ s.rxLen.toNat →
          (addr ≠ address → run = .next (failedWith .failAddress s))
          ∧ (addr = address → cand.setWidth 16 ≠ fcnt → run = .next (failedWith .errParam s))
          ∧ (addr = address → cand.setWidth 16 = fcnt → streamValid s.r.fcntValid ck = true →
              cand = lastFcnt s.r ck → run = .next (failedWith .failFcntDuplicated s))
          ∧ (addr = address → cand.setWidth 16 = fcnt → streamValid s.r.fcntValid ck = true →
              cand.toNat < (lastFcnt s.r ck).toNat → run = .next (failedWith .failFcntSmaller s))
          ∧ (∀ kI n, addr = address → cand.setWidth 16 = fcnt →
              (streamValid s.r.fcntValid ck = true → (lastFcnt s.r ck).toNat < cand.toNat) →
              let optLen := (byteAt b 5).toNat % 16
              let rem := s.rxLen.toNat - 12 - optLen
              let port0 := 1 ≤ rem ∧ byteAt b (8 + optLen) = 0
              let v11u := s.r.lwVariant = .v11 ∧ ak = 0
              let slotE : KeySlot := if ak = 0 then (if port0 then .nwkSEncKey else .appSKey)
                else (if port0 then .mcNwkSKey h else .mcAppSKey h)
              let slotI : KeySlot := if ak = 0 then .sNwkSIntKey else .mcNwkSKey h
              let conf : Half := if s.r.lwVariant = .v11 ∧ ak = 0 ∧ (byteAt b 5).getLsbD 5 = true then
                s.r.fcntUp.setWidth 16 else 0
              let msg := b.take (s.rxLen.toNat - 4)
              let b0 := authBlock 0x01 0x00 0x00 address cand (s.rxLen.toNat - 4) conf
              let mic : Word := BitVec.ofNat 32 (unLe (slice b (s.rxLen.toNat - 4) 4))
              let calls := [Call.seCmac (some b0) msg slotI]
                ++ payloadCalls slotE 0x01 address cand (slice b (9 + optLen) (rem - 1))
                ++ (if v11u ∧ optLen ≠ 0 then [.seEcb (counterBlock 0x01 address cand 0) .nwkSEncKey] else [])
              (∀ x, s.se.get slotI = some x → x = kI) →
              (SeFailsAt calls n s → (1 ≤ n → tag32 s.par kI (some b0) msg = mic) →
                ∃ t, run = .next t ∧ { t with script := s.script } =
                  { failedWith .errSeFailed s with trace := s.trace ++ calls.take (n + 1) })
              ∧ (s.se.get slotI ≠ none → SeAccepts [.seCmac (some b0) msg slotI] s → tag32 s.par kI (some b0) msg ≠ mic →
                ∃ t, run = .next t ∧ { t with script := s.script } =
                  { failedWith .failMic s with trace := s.trace ++ [.seCmac (some b0) msg slotI] }))))

/-- The downlink counter law (42_counters.md R166, 10_state.md R30 (a)): outside the commands that reset or set
counters (`MC.ADD` and `MC.REMOVE` among them, 46_system.md R256, R257, log entry 14), a stream changes only by a
successful `SEC.DOWNLINK` on it, which makes it valid or replaces its counter by a strictly greater one. -/
def Obligations.DownlinkCounterLaw : Prop :=
  ∀ (i : Instr) (s t : State) (k : BitVec 3), k.toNat ≤ 5 → exec i s = .next t →
    i ≠ .sysInit → (∀ a b, i ≠ .fcntReset a b) → (∀ a b, i ≠ .mibSet a b) →
    ((∃ a b c, i = .secJoinacc a b c) → t.status ≠ .ok) →
    (∀ a b c d e f, i ≠ .mcAdd a b c d e f) → (∀ a b, i ≠ .mcRemove a b) →
      (lastFcnt t.r k = lastFcnt s.r k ∧ streamValid t.r.fcntValid k = streamValid s.r.fcntValid k)
      ∨ (t.status = .ok ∧ streamValid t.r.fcntValid k = true ∧ (∃ ak a c, i = .secDownlink ak a k c ∧ lastFcnt t.r k = c)
          ∧ (streamValid s.r.fcntValid k = false ∨ (lastFcnt s.r k).toNat < (lastFcnt t.r k).toNat))

/-- 43_dutycycle_adr.md R181: the ADR ack counter returns to zero on any successful downlink and on a successful
join, and no failing command changes it. -/
def Obligations.AdrCounterReturnsToZero : Prop :=
  ∀ (i : Instr) (s t : State), exec i s = .next t →
    ((∃ ak a ck c, i = .secDownlink ak a ck c) ∨ (∃ q e n, i = .secJoinacc q e n) → t.status = .ok →
      t.r.adrAckCnt = 0)
    ∧ (portOf i = .command → t.status.completed = false → t.r.adrAckCnt = s.r.adrAckCnt)

/-- 41_security_engine.md R133 and R134: the request frames and the key of each MIC (log entry 16); the capacity in its
two tests, the length after the session test; a call that fails, refused or on an empty slot (R121), is `ERR_SE_FAILED`
with nothing changed. -/
def Obligations.SecRequestsSecure : Prop :=
  ∀ (cap : Byte) (s : State) (k : Key),
    let capOk := 1 ≤ cap.toNat ∧ cap.toNat ≤ s.par.phyMax
    let secured := fun (i : Instr) (msg : List Byte) (slot : KeySlot) =>
      let call := Call.seCmac none msg slot
      (capOk → cap.toNat < msg.length + 4 → exec i s = .next (failedWith .errBufSize s))
      ∧ (capOk → msg.length + 4 ≤ cap.toNat → SeFailsAt [call] 0 s →
          ∃ t, exec i s = .next t
            ∧ { t with script := s.script } = { failedWith .errSeFailed s with trace := s.trace ++ [call] })
      ∧ (capOk → msg.length + 4 ≤ cap.toNat → s.se.get slot = some k → SeAccepts [call] s →
          ∃ t, exec i s = .next t
            ∧ { t with mem := s.mem, script := s.script } = { answeredOk [] s with
                fd := { s.fd with mic := tag32 s.par k none msg }
                txLen := BitVec.ofNat 8 (msg.length + 4)
                trace := s.trace ++ [call] }
            ∧ Stores s t (only .tx (msg ++ le32 (tag32 s.par k none msg))))
    let msgJoin := [s.fd.mhdr] ++ revEui s.fd.joinEui ++ revEui s.fd.devEui ++ le16 s.fd.devNonce
    let msgRejoin1 := [s.fd.mhdr, s.fd.rejoinType] ++ revEui s.fd.joinEui ++ revEui s.fd.devEui ++ le16 s.fd.rjCount
    let msgRejoin02 := [s.fd.mhdr, s.fd.rejoinType] ++ le24 s.fd.netId ++ revEui s.fd.devEui ++ le16 s.fd.rjCount
    (msgJoin.length + 4 = 23 ∧ msgRejoin1.length + 4 = 24 ∧ msgRejoin02.length + 4 = 19)
    ∧ (¬ capOk → exec (.secJoinreq cap) s = .next (failedWith .errParam s)
        ∧ exec (.secRejoin cap) s = .next (failedWith .errParam s))
    ∧ secured (.secJoinreq cap) msgJoin .nwkKey
    ∧ (s.fd.rejoinType = 1 → secured (.secRejoin cap) msgRejoin1 .jSIntKey)
    ∧ (s.fd.rejoinType = 0 ∨ s.fd.rejoinType = 2 → s.r.joined = true → secured (.secRejoin cap) msgRejoin02 .sNwkSIntKey)
    ∧ (s.fd.rejoinType = 0 ∨ s.fd.rejoinType = 2 → s.r.joined = false → capOk →
        exec (.secRejoin cap) s = .next (failedWith .errNotJoined s))
    ∧ (2 < s.fd.rejoinType.toNat → capOk → exec (.secRejoin cap) s = .next (failedWith .errParam s))

/-- 41_security_engine.md R136 to R138: which key each derivation stores, and that no register of the block changes but
`STATUS` (log entry 16). -/
def Obligations.DerivationsStoreKeys : Prop :=
  ∀ (s : State) (k ka : Key),
    let derives := fun (i : Instr) (calls : List Call) (se : KeyStore) =>
      SeAccepts calls s → ∃ t, exec i s = .next t
        ∧ { t with script := s.script } = { answeredOk [] s with se := se, trace := s.trace ++ calls }
    (∀ v jn ni je dn, s.se.nwkKey = some k → (v = .v11 → s.se.appKey = some ka) →
      derives (.secDeriveSession v jn ni je dn) (sessionCalls v jn ni je dn) (sessionKeys s.par v jn ni je dn k ka s.se))
    ∧ (s.r.lwVariant = .v11 → s.se.appKey = some k → derives (.secDeriveMc .root)
        [.seDeriveStore ([0x20] ++ List.replicate 15 0) .appKey .mcRootKey]
        { s.se with mcRootKey := some (derived s.par k ([0x20] ++ List.replicate 15 0)) })
    ∧ (s.r.lwVariant = .v10 → s.se.genAppKey = some k → derives (.secDeriveMc .root)
        [.seDeriveStore (List.replicate 16 0) .genAppKey .mcRootKey]
        { s.se with mcRootKey := some (derived s.par k (List.replicate 16 0)) })
    ∧ (s.se.mcRootKey = some k → derives (.secDeriveMc .ke)
        [.seDeriveStore (List.replicate 16 0) .mcRootKey .mcKeKey]
        { s.se with mcKeKey := some (derived s.par k (List.replicate 16 0)) })
    ∧ (∀ h enc, s.se.mcKeKey = some k → derives (.secDeriveMc (.key h enc))
        [.seDeriveStore (beBytes 16 enc.toNat) .mcKeKey (.mcKey h)]
        { s.se with mcKey := set4 s.se.mcKey h (some (derived s.par k (beBytes 16 enc.toNat))) })
    ∧ (∀ (h : BitVec 2) (a : Word), at4 s.se.mcKey h = some k → derives (.secDeriveMc (.session h a))
        [.seDeriveStore ([0x01] ++ le32 a ++ List.replicate 11 0) (.mcKey h) (.mcAppSKey h),
         .seDeriveStore ([0x02] ++ le32 a ++ List.replicate 11 0) (.mcKey h) (.mcNwkSKey h)]
        { s.se with
          mcAppSKey := set4 s.se.mcAppSKey h (some (derived s.par k ([0x01] ++ le32 a ++ List.replicate 11 0)))
          mcNwkSKey := set4 s.se.mcNwkSKey h (some (derived s.par k ([0x02] ++ le32 a ++ List.replicate 11 0))) })
    ∧ (∀ e, s.se.nwkKey = some k → derives (.secDeriveLifetime e)
        [.seDeriveStore ([0x06] ++ revEui e ++ List.replicate 7 0) .nwkKey .jSIntKey,
         .seDeriveStore ([0x05] ++ revEui e ++ List.replicate 7 0) .nwkKey .jSEncKey]
        { s.se with jSIntKey := some (derived s.par k ([0x06] ++ revEui e ++ List.replicate 7 0))
                    jSEncKey := some (derived s.par k ([0x05] ++ revEui e ++ List.replicate 7 0)) })

/-- 70_reset_and_hazards.md R318: when call `n` of a derivation fails, refused or on an empty slot, the command answers
`ERR_SE_FAILED` with no register of the block changed, the slots of the calls before it hold their new keys and its own
slot keeps its old content, for `SEC.DERIVE_SESSION` in both variants, every stage of `SEC.DERIVE_MC`,
`SEC.DERIVE_LIFETIME`, and the derivation inside `SEC.JOINACC`, after its MIC has matched (log entry 16). -/
def Obligations.DerivationFailureKeepsEarlierKeys : Prop :=
  ∀ (s : State) (n : Nat) (k ka : Key),
    let fails := fun (i : Instr) (calls : List Call) (se : KeyStore) =>
      SeFailsAt calls n s → ∃ t, exec i s = .next t
        ∧ { t with script := s.script } = { failedWith .errSeFailed s with
            trace := s.trace ++ calls.take (n + 1), se := se }
    (∀ v jn ni je dn, (∀ x, s.se.nwkKey = some x → x = k) → (∀ x, s.se.appKey = some x → x = ka) →
      fails (.secDeriveSession v jn ni je dn) (sessionCalls v jn ni je dn)
        (sessionKeysUpTo s.par n v jn ni je dn k ka s.se))
    ∧ (s.r.lwVariant = .v11 → fails (.secDeriveMc .root)
        [.seDeriveStore ([0x20] ++ List.replicate 15 0) .appKey .mcRootKey] s.se)
    ∧ (s.r.lwVariant = .v10 → fails (.secDeriveMc .root)
        [.seDeriveStore (List.replicate 16 0) .genAppKey .mcRootKey] s.se)
    ∧ fails (.secDeriveMc .ke) [.seDeriveStore (List.replicate 16 0) .mcRootKey .mcKeKey] s.se
    ∧ (∀ h enc, fails (.secDeriveMc (.key h enc)) [.seDeriveStore (beBytes 16 enc.toNat) .mcKeKey (.mcKey h)] s.se)
    ∧ (∀ (h : BitVec 2) (a : Word), (∀ x, at4 s.se.mcKey h = some x → x = k) → fails (.secDeriveMc (.session h a))
        [.seDeriveStore ([0x01] ++ le32 a ++ List.replicate 11 0) (.mcKey h) (.mcAppSKey h),
         .seDeriveStore ([0x02] ++ le32 a ++ List.replicate 11 0) (.mcKey h) (.mcNwkSKey h)]
        { s.se with mcAppSKey :=
            if 1 ≤ n then set4 s.se.mcAppSKey h (some (derived s.par k ([0x01] ++ le32 a ++ List.replicate 11 0)))
            else s.se.mcAppSKey })
    ∧ (∀ e, (∀ x, s.se.nwkKey = some x → x = k) → fails (.secDeriveLifetime e)
        [.seDeriveStore ([0x06] ++ revEui e ++ List.replicate 7 0) .nwkKey .jSIntKey,
         .seDeriveStore ([0x05] ++ revEui e ++ List.replicate 7 0) .nwkKey .jSEncKey]
        { s.se with jSIntKey :=
            if 1 ≤ n then some (derived s.par k ([0x06] ++ revEui e ++ List.replicate 7 0)) else s.se.jSIntKey })
    ∧ (∀ (q : Byte) (je : Eui) (dn : Half) (b : List Byte) (kd km : Key),
        (q = 0xFF ∧ s.r.joined = false) ∨ q.toNat ≤ 2 → s.rxLen = 17 ∨ s.rxLen = 33 →
        s.rxLen.toNat ≤ s.par.phyMax → s.read .rx 0 s.rxLen.toNat = some b →
        let pl := acceptPlain s.par kd b
        let v := acceptVariant s.r.lwVariant pl
        let verify := verifyCalls v q je dn b pl
        let jn : Tri := BitVec.ofNat 24 (unLe (slice pl 1 3))
        let ni : Tri := BitVec.ofNat 24 (unLe (slice pl 4 3))
        let calls := verify ++ sessionCalls v jn ni je dn
        (∀ x, s.se.get (acceptSlot q) = some x → x = kd) → (∀ x, s.se.get (acceptMicSlot v) = some x → x = km) →
        (∀ x, s.se.nwkKey = some x → x = k) → (∀ x, s.se.appKey = some x → x = ka) →
        tag32 s.par km none (acceptData v q je dn pl) = acceptMic pl →
        SeFailsAt calls (verify.length + n) s →
          ∃ t, exec (.secJoinacc q je dn) s = .next t
            ∧ { t with script := s.script } = { failedWith .errSeFailed s with
                trace := s.trace ++ calls.take (verify.length + n + 1)
                se := sessionKeysUpTo s.par n v jn ni je dn k ka s.se })

/-- 41_security_engine.md R135: an accepted join-accept. The frame is decrypted with the encrypt call of the Secure
Element, its MIC verified for the negotiated variant, the session keys derived, and then everything is committed at once (log entry
16). -/
def Obligations.SecJoinaccAccepts : Prop :=
  ∀ (q : Byte) (je : Eui) (dn : Half) (s : State) (b : List Byte) (kd kn kj ka : Key),
    (q = 0xFF ∧ s.r.joined = false) ∨ q.toNat ≤ 2 → s.rxLen = 17 ∨ s.rxLen = 33 →
    s.rxLen.toNat ≤ s.par.phyMax → s.read .rx 0 s.rxLen.toNat = some b →
    let long := s.rxLen = 33
    let pl := acceptPlain s.par kd b
    let v := acceptVariant s.r.lwVariant pl
    let jn : Tri := BitVec.ofNat 24 (unLe (slice pl 1 3))
    let ni : Tri := BitVec.ofNat 24 (unLe (slice pl 4 3))
    let addr : Word := BitVec.ofNat 32 (unLe (slice pl 7 4))
    let calls := verifyCalls v q je dn b pl ++ sessionCalls v jn ni je dn
    s.se.get (acceptSlot q) = some kd → s.se.nwkKey = some kn →
    (v = .v11 → s.se.jSIntKey = some kj ∧ s.se.appKey = some ka) →
    tag32 s.par (if v = .v11 then kj else kn) none (acceptData v q je dn pl) = acceptMic pl → SeAccepts calls s →
      ∃ t, exec (.secJoinacc q je dn) s = .next t
        ∧ { t with mem := s.mem, script := s.script } =
          { answeredOk [if v = .v11 then 1 else 0, if long then 1 else 0] s with
            fd := { s.fd with
              mhdr := byteAt b 0, joinNonce := jn, netId := ni, devAddr := addr, dlSettings := byteAt pl 11,
              rxDelay := byteAt pl 12, cflistPresent := s.rxLen == 33, mic := acceptMic pl }
            r := { s.r with
              joined := true, netId := ni, devAddr := addr, lwVariant := v, fcntUp := 0, nFcntDown := 0,
              aFcntDown := 0, lastDownFcnt := 0, fcntValid := s.r.fcntValid &&& 0b111100, adrAckCnt := 0 }
            se := sessionKeys s.par v jn ni je dn kn ka s.se
            trace := s.trace ++ calls ++ (if long then [.regionApplyCflist (slice pl 13 16)] else []) }
        ∧ Stores s t (fun
            | .rx => pl
            | .cflist => if long then slice pl 13 16 else []
            | _ => [])

/-- 41_security_engine.md R135 and 60_exceptions.md R286: the refusals of `SEC.JOINACC`, in the order tested. Before any
call: the request type, a join while joined, the length (beyond the end of `RXBUF` too, 20_memory.md R53). Then: a call of
the decryption or of the MIC that fails, refused or on an empty slot (R121), is `ERR_SE_FAILED`; a MIC that does not match
is `FAIL_MIC`; nothing has changed, and no session key has been stored (log entry 16). -/
def Obligations.SecJoinaccRefusals : Prop :=
  ∀ (q : Byte) (je : Eui) (dn : Half) (s : State),
    let run := exec (.secJoinacc q je dn) s
    let kinds := (q = 0xFF ∧ s.r.joined = false) ∨ q.toNat ≤ 2
    (q ≠ 0xFF → 2 < q.toNat → run = .next (failedWith .errParam s))
    ∧ (q = 0xFF → s.r.joined = true → run = .next (failedWith .failAlreadyJoined s))
    ∧ (kinds → (s.rxLen ≠ 17 ∧ s.rxLen ≠ 33) ∨ s.par.phyMax < s.rxLen.toNat → run = .next (failedWith .errParse s))
    ∧ (∀ (b : List Byte) (kd km : Key), kinds → s.rxLen = 17 ∨ s.rxLen = 33 → s.rxLen.toNat ≤ s.par.phyMax →
        s.read .rx 0 s.rxLen.toNat = some b →
        let pl := acceptPlain s.par kd b
        let v := acceptVariant s.r.lwVariant pl
        let calls := verifyCalls v q je dn b pl
        (∀ x, s.se.get (acceptSlot q) = some x → x = kd) → (∀ x, s.se.get (acceptMicSlot v) = some x → x = km) →
        (∀ n, SeFailsAt calls n s →
          ∃ t, run = .next t ∧ { t with script := s.script } =
            { failedWith .errSeFailed s with trace := s.trace ++ calls.take (n + 1) })
        ∧ (SeAccepts calls s → ¬ UsesEmptySlot calls s → tag32 s.par km none (acceptData v q je dn pl) ≠ acceptMic pl →
          ∃ t, run = .next t ∧ { t with script := s.script } =
            { failedWith .failMic s with trace := s.trace ++ calls }))

/-! ### Counters -/

/-- 42_counters.md R161 and R167. -/
def Obligations.CounterNextAndReset : Prop :=
  ∀ (s : State) (scope h : BitVec 2),
    exec .fcntNextUp s = .next
      (if s.r.fcntUp = 0xFFFFFFFF then failedWith .failFcntSmaller s else answeredOk (le32 (s.r.fcntUp + 1)) s)
    ∧ exec (.fcntReset scope h) s = .next
      (if scope = 3 then failedWith .errParam s
       else { answeredOk [] s with r :=
        if scope = 0 then
          { s.r with fcntUp := 0, nFcntDown := 0, aFcntDown := 0, lastDownFcnt := 0,
                     fcntValid := s.r.fcntValid &&& 0b111100 }
        else if scope = 1 then
          { s.r with mcFcntDown := set4 s.r.mcFcntDown h 0,
                     fcntValid := s.r.fcntValid &&& ~~~(1#6 <<< (2 + h.toNat)) }
        else
          { s.r with fcntUp := 0, nFcntDown := 0, aFcntDown := 0, lastDownFcnt := 0,
                     mcFcntDown := Vector.replicate 4 0, fcntValid := 0 } })

/-- 42_counters.md R163: the reconstruction, with the rule's own case split and the tests in its order. -/
def Obligations.CounterReconstruct : Prop :=
  ∀ (k : BitVec 3) (wire : Half) (s : State),
    let run := exec (.fcntReconstruct k wire) s
    let known := k.toNat ≤ 5 ∧ (2 ≤ k.toNat → (at4 s.mc (BitVec.ofNat 2 (k.toNat - 2))).valid = true)
    let last := (lastFcnt s.r k).toNat
    let low := last % 65536
    let cand := if low < wire.toNat then last + (wire.toNat - low) else last / 65536 * 65536 + 65536 + wire.toNat
    (¬ known → run = .next (failedWith .errParam s))
    ∧ (known → streamValid s.r.fcntValid k = false →
        run = .next (answeredOk (le32 (wire.setWidth 32) ++ [0]) s))
    ∧ (known → streamValid s.r.fcntValid k = true →
        run = .next
          (if wire.toNat = low then failedWith .failFcntDuplicated s
           else if 2 ^ 32 ≤ cand then failedWith .failFcntSmaller s
           else if s.par.maxFcntGap < cand - last then failedWith .failMaxGap s
           else answeredOk (le32 (BitVec.ofNat 32 cand) ++ [if wire.toNat < low then 1 else 0]) s))

/-- 42_counters.md R163 in words and R164: an accepted candidate is greater than the last counter, has the wire value as
its low half, lies within the gap, and is the only number that does. -/
def Obligations.ReconstructedCounterIsUnique : Prop :=
  ∀ (k : BitVec 3) (wire : Half) (s t : State) (c : Word) (roll : Byte),
    s.par.maxFcntGap < 65536 → streamValid s.r.fcntValid k = true →
    exec (.fcntReconstruct k wire) s = .next t → t.answer = 0x00 :: (le32 c ++ [roll]) →
      (lastFcnt s.r k).toNat < c.toNat ∧ c.toNat % 65536 = wire.toNat
      ∧ c.toNat - (lastFcnt s.r k).toNat ≤ s.par.maxFcntGap
      ∧ ∀ c' : Nat, (lastFcnt s.r k).toNat < c' → c' % 65536 = wire.toNat →
          c' - (lastFcnt s.r k).toNat ≤ s.par.maxFcntGap → c' = c.toNat

/-! ### Duty cycle, ADR and acknowledgments -/

/-- 43_dutycycle_adr.md R176 and R177: the time-off a transmission leaves; the Region is asked with what is left of it,
and the larger of the two waits decides. The Region's answer is free (log entry 3). -/
def Obligations.DutyCycleCommands : Prop :=
  (∀ (now toa : Word) (channel : Byte) (s : State),
      let off := toa.toNat * s.r.aggDcycle.toNat - toa.toNat
      exec (.dcTxUpdate now toa channel) s = .next
        (if 2 ^ 32 ≤ off then failedWith .errParam s
         else { answeredOk [] s with
          r := { s.r with aggTimeOff := BitVec.ofNat 32 off, lastAggTx := now, aggTxValid := true }
          trace := s.trace ++ [.regionTxDone channel s.r.joined now toa] }))
  ∧ ∀ (now : Word) (allow : Bool) (s : State),
      let elapsed := (now - s.r.lastAggTx).toNat
      let wait : Word := if s.r.aggTxValid = true ∧ elapsed < s.r.aggTimeOff.toNat
        then BitVec.ofNat 32 (s.r.aggTimeOff.toNat - elapsed) else 0
      let r := regionNextChannel now s.r.chDatarate s.r.joined wait s
      let asked : State := { s with trace := s.trace ++ [.regionNextChannel now s.r.chDatarate s.r.joined wait],
                                    script := r.2.script }
      (r.1 = none → exec (.dcSchedule now allow) s = .next (failedWith .errNoFreeChannel asked))
      ∧ (∀ ch w, r.1 = some (ch, w) →
          let backoff := BitVec.ofNat 32 (max wait.toNat w.toNat)
          exec (.dcSchedule now allow) s = .next
            (if backoff = 0 then answeredOk ([0, ch, s.r.chDatarate] ++ le32 0) asked
             else if allow = true then
               { answeredOk ([1, ch, s.r.chDatarate] ++ le32 backoff) asked with
                 t := { s.t with dcDelay := { armed := true, due := now + backoff } } }
             else { asked with status := .errDutycycleRestricted, answer := 0x0F :: le32 backoff }))

/-- The duty-cycle property (43_dutycycle_adr.md R178), as its one step: after a transmission of `toa` that ended at
`fin`, `DC.SCHEDULE` answers `SEND_NOW` only when `toa * (N - 1)` ms have gone by on the clock. -/
def Obligations.DutyCycleLaw : Prop :=
  ∀ (s t u v : State) (fin toa now : Word) (ch ch' : Byte) (allow : Bool) (rest : List Byte),
    1 ≤ s.r.aggDcycle.toNat →
    exec (.dcTxUpdate fin toa ch) s = .next t → t.status = .ok →
    u.r.aggTimeOff = t.r.aggTimeOff → u.r.lastAggTx = t.r.lastAggTx → u.r.aggTxValid = t.r.aggTxValid →
    exec (.dcSchedule now allow) u = .next v → v.answer = 0x00 :: 0x00 :: ch' :: rest →
      toa.toNat * (s.r.aggDcycle.toNat - 1) ≤ (now - fin).toNat

/-- 43_dutycycle_adr.md R179 and R180; the Region's answer is free (log entry 3). -/
def Obligations.AdrCommands : Prop :=
  ∀ (s : State) (down : Bool),
    (s.r.adrOn = false → exec .adrNext s = .next
      { answeredOk [s.r.chDatarate, s.r.chTxPower, 0] s with
        fd := { s.fd with fctrl := s.fd.fctrl &&& 0x3F } })
    ∧ (∀ dr pw req, s.r.adrOn = true →
        (regionAdrNext s.r.adrAckCnt s.r.chDatarate s.r.chTxPower s).1 = (dr, pw, req) →
        exec .adrNext s = .next
          { answeredOk [dr, pw, if req then 1 else 0] s with
            fd := { s.fd with fctrl := (s.fd.fctrl &&& 0x3F) ||| (if req then 0xC0 else 0x80) }
            r := { s.r with chDatarate := dr, chTxPower := pw }
            trace := s.trace ++ [.regionAdrNext s.r.adrAckCnt s.r.chDatarate s.r.chTxPower]
            script := (regionAdrNext s.r.adrAckCnt s.r.chDatarate s.r.chTxPower s).2.script })
    ∧ exec (.adrUplinkEnd down) s = .next { answeredOk [] s with
        r := { s.r with
          adrAckCnt := if s.r.adrOn = true ∧ down = false
            then BitVec.ofNat 32 (min (s.r.adrAckCnt.toNat + 1) (2 ^ 32 - 1)) else s.r.adrAckCnt } }

/-- 43_dutycycle_adr.md R182 to R184; the Region's next datarate is free (log entry 3). The numbers of the result
`action`, 0 `RETRANSMIT` and 1 `GIVE_UP`, are those of the row `ACK.TIMEOUT` of spec/opcode_table.json. -/
def Obligations.AckCommands : Prop :=
  ∀ (s : State) (retries : Byte),
    exec (.ackStart retries) s = .next
      { answeredOk [BitVec.ofNat 8 (min (max retries.toNat 1) 8)] s with
        r := { s.r with ackRetries := BitVec.ofNat 4 (min (max retries.toNat 1) 8), ackRetryCnt := 1 } }
    ∧ (s.r.ackRetryCnt = 0 → exec .ackTimeout s = .next (failedWith .errParam s)
        ∧ exec .ackReceived s = .next (failedWith .errParam s))
    ∧ (s.r.ackRetryCnt ≠ 0 → exec .ackReceived s = .next
        { answeredOk [s.r.ackRetryCnt.setWidth 8, 1, s.r.chDatarate] s with
          r := { s.r with ackRetryCnt := 0 }
          t := { s.t with ackTo := { armed := false, due := s.t.ackTo.due } } })
    ∧ (s.r.ackRetryCnt ≠ 0 → s.r.ackRetries.toNat ≤ s.r.ackRetryCnt.toNat → exec .ackTimeout s = .next
        { s with
          status := .failAckExhausted
          answer := [0x12, 1, s.r.ackRetryCnt.setWidth 8, 0, s.r.chDatarate]
          r := { s.r with ackRetryCnt := 0 }
          t := { s.t with rx1 := { s.t.rx1 with armed := false }, rx2 := { s.t.rx2 with armed := false },
                          ackTo := { s.t.ackTo with armed := false }, dcDelay := { s.t.dcDelay with armed := false } }
          trace := s.trace ++ [.regionRestoreDefaults] })
    ∧ (s.r.ackRetryCnt ≠ 0 → s.r.ackRetryCnt.toNat < s.r.ackRetries.toNat →
        let n := s.r.ackRetryCnt + 1
        let asked := regionNextLowerDr s.r.chDatarate { s with r := { s.r with ackRetryCnt := n } }
        exec .ackTimeout s = .next
          (if n.toNat % 2 = 1 then
             { answeredOk [0, n.setWidth 8, 0, asked.1] s with
               r := { s.r with ackRetryCnt := n, chDatarate := asked.1 }
               trace := s.trace ++ [.regionNextLowerDr s.r.chDatarate]
               script := asked.2.script }
           else { answeredOk [0, n.setWidth 8, 0, s.r.chDatarate] s with r := { s.r with ackRetryCnt := n } }))

/-! ### Receive windows -/

/-- 44_rx_windows.md R201: the delays by join state, the ack timer anchored at RX2, class C listening again. The
Region's offsets are free (log entry 3). -/
def Obligations.RxWindowsArmed : Prop :=
  ∀ (now : Word) (confirmed : Bool) (s : State),
    let r1 := regionWindow (.regionRxWindow .win1 s.r.chDatarate) s
    let r2 := regionWindow (.regionRxWindow .win2 s.r.chDatarate) r1.2
    let t1 := now + (if s.r.joined then s.r.receiveDelay1 else s.r.joinAcceptDelay1) + r1.1.1
    let t2 := now + (if s.r.joined then s.r.receiveDelay2 else s.r.joinAcceptDelay2) + r2.1.1
    ∃ t, exec (.rxwTxDone now confirmed) s = .next t
      ∧ { t with script := s.script } = { answeredOk (le32 t1 ++ le32 t2) s with
          t := { s.t with rx1 := { armed := true, due := t1 }, rx2 := { armed := true, due := t2 },
                          ackTo := if confirmed then { armed := true, due := t2 + s.par.ackTimeout } else s.t.ackTo }
          r := { s.r with rxSlot := if s.r.deviceClass = .c then .classC else .none }
          trace := s.trace ++ [.regionRxWindow .win1 s.r.chDatarate, .regionRxWindow .win2 s.r.chDatarate]
            ++ (if s.r.deviceClass = .c then [.regionRxConfig .classC s.r.chDatarate none, .radioReceive 0]
                else [.radioSleep]) }

/-- 44_rx_windows.md R202 and R203. A refused configuration leaves the slot identity and the Radio in standby
(70_reset_and_hazards.md R317). -/
def Obligations.RxWindowsOpenAndClose : Prop :=
  ∀ (win2 : Bool) (outcome : BitVec 2) (s : State),
    let slot : RxSlot := if win2 then .win2 else .win1
    let w := regionWindow (.regionRxWindow slot s.r.chDatarate) s
    let c := regionRxConfig slot s.r.chDatarate none { w.2 with trace := w.2.trace ++ [.radioStandby] }
    let calls := [Call.regionRxWindow slot s.r.chDatarate, .radioStandby, .regionRxConfig slot s.r.chDatarate none]
    (c.1 = false → exec (.rxwOpen win2) s = .next
      { failedWith .errParam s with trace := s.trace ++ calls, script := c.2.script })
    ∧ (c.1 = true → exec (.rxwOpen win2) s = .next
      { answeredOk [] s with
        r := { s.r with rxSlot := slot }
        trace := s.trace ++ calls ++ [.radioReceive (if win2 = true ∧ s.r.deviceClass = .c then 0 else w.1.2)]
        script := c.2.script })
    ∧ (s.r.rxSlot ≠ .win1 → s.r.rxSlot ≠ .win2 → s.r.rxSlot ≠ .classC →
        exec (.rxwRxDone outcome) s = .next (failedWith .errParam s))
    ∧ (s.r.rxSlot = .win1 ∨ s.r.rxSlot = .win2 ∨ s.r.rxSlot = .classC →
        ∃ t, exec (.rxwRxDone outcome) s = .next t
          ∧ { t with script := s.script } = { answeredOk [(slotCode s.r.rxSlot).setWidth 8] s with
              t := if outcome = 0 ∧ s.r.rxSlot = .win1 then { s.t with rx2 := { s.t.rx2 with armed := false } }
                else s.t
              r := { s.r with rxSlot := if s.r.deviceClass = .c then .classC else .none }
              trace := s.trace
                ++ (if s.r.deviceClass = .c then [.regionRxConfig .classC s.r.chDatarate none, .radioReceive 0]
                    else [.radioSleep]) })

/-- 44_rx_windows.md R205: which instruction can give `R.RX_SLOT` each new value. -/
def Obligations.RxSlotWriters : Prop :=
  ∀ (i : Instr) (s t : State), exec i s = .next t → t.r.rxSlot ≠ s.r.rxSlot →
    match t.r.rxSlot with
    | .win1 => i = .rxwOpen false
    | .win2 => i = .rxwOpen true
    | .classC => (∃ a b, i = .rxwTxDone a b) ∨ (∃ a, i = .rxwRxDone a) ∨ ∃ a b, i = .sysSetClass a b
    | .pingSlot => ∃ a, i = .pingTimer a
    | .mcSlot => ∃ a, i = .mcslotTimer a
    | .beacon => (∃ a, i = .bcnAcquire a) ∨ ∃ a, i = .bcnTimer a
    | .none => (∃ a b, i = .rxwTxDone a b) ∨ (∃ a, i = .rxwRxDone a) ∨ (∃ a, i = .slotRxDone a)
        ∨ (∃ a b c, i = .bcnRxBeacon a b c) ∨ (∃ a, i = .bcnRxTimeout a) ∨ i = .bcnHalt ∨ i = .sysInit
        ∨ ∃ a b, i = .sysSetClass a b

/-! ### Class B -/

/-- 45_classb_beacon.md R217 and R224: the tracker started and stopped. That a halt returns `B.LAST_RX`, `B.EPOCH` and
`B.TIME_S` to 0 is what the prose of R224 says and its pseudocode leaves out (log entry 26). (`path` is the model's
record, log entry 20.) -/
def Obligations.BeaconStartAndStop : Prop :=
  ∀ (now : Word) (s : State),
    (s.b.run = true → exec (.bcnAcquire now) s = .next (failedWith .errBusy s))
    ∧ (s.b.run = false → s.r.deviceClass = .c → exec (.bcnAcquire now) s = .next (failedWith .errParam s))
    ∧ (s.b.run = false → s.r.deviceClass ≠ .c → ∃ t, exec (.bcnAcquire now) s = .next t
      ∧ { t with script := s.script } = { answeredOk [] s with
          b := { s.b with run := true, state := .acquisition, acqPending := true, lastRxValid := false,
                          symto := s.par.bcnSymtoDef }
          p := { s.p with symto := s.par.pingSymtoDef }
          r := { s.r with rxSlot := .beacon }
          path := s.path ++ [.acquisition]
          trace := s.trace ++ [.radioStandby, .regionRxConfig .beacon 0 none,
            .radioReceive (BitVec.ofNat 32 s.par.beaconInterval)] })
    ∧ (let listening := s.r.rxSlot = .beacon ∨ s.r.rxSlot = .pingSlot ∨ s.r.rxSlot = .mcSlot
      exec .bcnHalt s = .next { answeredOk [] s with
        b := { run := false, state := .acquisition, acqPending := false, lastRxValid := false, lastRx := 0, epoch := 0,
               timeS := 0, symto := s.b.symto }
        t := { s.t with beacon := { s.t.beacon with armed := false }, ping := { s.t.ping with armed := false },
                        mcslot := { s.t.mcslot with armed := false } }
        r := { s.r with deviceClass := if s.r.deviceClass = .b then .a else s.r.deviceClass
                        rxSlot := if listening then .none else s.r.rxSlot }
        path := s.path ++ [.acquisition]
        trace := s.trace ++ (if listening then [.radioSleep] else []) })

/-- 45_classb_beacon.md R218 to R220 and R223: what the three beacon events do. `enterIdle` is the procedure of R221,
stated by `EnterIdleProcedure`. That an extrapolated beacon adds the integer quotient `BEACON_INTERVAL / 1000` to the time
is log entry 17. (`path` is the model's record, log entry 20.) -/
def Obligations.BeaconEvents : Prop :=
  ∀ (now tBeacon timeS : Word) (s : State),
    let expected := s.b.run = true ∧ s.r.rxSlot = .beacon ∧ (s.b.state = .acquisition ∨ s.b.state = .rx)
    (¬ expected → exec (.bcnRxBeacon now tBeacon timeS) s = .next (failedWith .errParam s)
      ∧ exec (.bcnRxTimeout now) s = .next (failedWith .errParam s))
    ∧ (expected → exec (.bcnRxBeacon now tBeacon timeS) s = .next (answeredOk [1] (enterIdle now { s with
        b := { s.b with state := .locked, lastRx := tBeacon, lastRxValid := true, epoch := tBeacon, timeS := timeS,
                        symto := s.par.bcnSymtoDef, acqPending := false }
        p := { s.p with symto := s.par.pingSymtoDef }
        path := s.path ++ [.locked] })))
    ∧ (let gone := s.b.lastRxValid = false ∨ s.par.maxBeaconLess < (now - s.b.lastRx).toNat
      (expected → gone → exec (.bcnRxTimeout now) s = .next
        { answeredOk [if s.b.acqPending then 3 else 2] s with
          b := { s.b with state := .lost, run := false, acqPending := false }
          t := { s.t with beacon := { s.t.beacon with armed := false }, ping := { s.t.ping with armed := false },
                          mcslot := { s.t.mcslot with armed := false } }
          r := { s.r with deviceClass := if s.r.deviceClass = .b then .a else s.r.deviceClass, rxSlot := .none }
          path := s.path ++ [.timeout, .beaconMissed, .lost]
          trace := s.trace ++ [.radioSleep] })
      ∧ (expected → ¬ gone → exec (.bcnRxTimeout now) s = .next (answeredOk [0] (enterIdle now { s with
          b := { s.b with
            state := .reacquisition
            epoch := s.b.epoch + BitVec.ofNat 32 s.par.beaconInterval
            timeS := s.b.timeS + BitVec.ofNat 32 (s.par.beaconInterval / 1000)
            symto := BitVec.ofNat 16 (min (s.b.symto.toNat * s.par.symtoFactor) s.par.bcnSymtoMax.toNat) }
          p := { s.p with
            symto := BitVec.ofNat 16 (min (s.p.symto.toNat * s.par.symtoFactor) s.par.pingSymtoMax.toNat) }
          path := s.path ++ [.timeout, .beaconMissed, .reacquisition] }))))
    ∧ (s.b.run = false ∨ (s.b.state ≠ .idle ∧ s.b.state ≠ .guard) →
        exec (.bcnTimer now) s = .next (failedWith .errParam s))
    ∧ (let w := regionWindow (.regionBeaconWindow s.b.symto) s
      (s.b.run = true → s.b.state = .idle → exec (.bcnTimer now) s = .next { answeredOk [] s with
        b := { s.b with state := .guard }
        t := { s.t with ping := { s.t.ping with armed := false }, mcslot := { s.t.mcslot with armed := false },
                        beacon := { armed := true,
                                    due := s.b.epoch + BitVec.ofNat 32 s.par.beaconInterval + w.1.1 } }
        path := s.path ++ [.guard]
        trace := s.trace ++ [.regionBeaconWindow s.b.symto]
        script := w.2.script })
      ∧ (s.b.run = true → s.b.state = .guard → ∃ t, exec (.bcnTimer now) s = .next t
        ∧ { t with script := s.script } = { answeredOk [] s with
            b := { s.b with state := .rx }
            r := { s.r with rxSlot := .beacon }
            path := s.path ++ [.rx]
            trace := s.trace ++ [.regionBeaconWindow s.b.symto, .radioStandby, .regionRxConfig .beacon 0 none,
              .radioReceive w.1.2] }))

/-- 45_classb_beacon.md R226: the offset is `PingRand` modulo the period; `PingRand` is the function the parameters
choose, in its default content the first two bytes of one AES block under the all-zero key (log entry 16). R221: new
offsets for the device and for every valid entry, both sequences restarted, the beacon timer at the guard time, then
`ArmPing`, `ArmMc`, and the Radio asleep. (`path` is the model's record, log entry 20.) -/
def Obligations.EnterIdleProcedure : Prop :=
  ∀ (now : Word) (s : State),
    let s1 : State := { s with
      p := { s.p with offset := if s.p.assigned then pingOffset s.par s.b.timeS s.r.devAddr s.p.pingPeriod else s.p.offset
                      nextN := 0 }
      mc := Vector.ofFn fun h : Fin 4 => { s.mc[h] with
        offset := if s.mc[h].valid then pingOffset s.par s.b.timeS s.mc[h].addr s.mc[h].pingPeriod else s.mc[h].offset
        nextN := 0 }
      b := { s.b with state := .idle }
      path := s.path ++ [.idle]
      t := { s.t with beacon := { armed := true, due := s.b.epoch + BitVec.ofNat 32 s.par.beaconInterval
                                    - BitVec.ofNat 32 s.par.beaconGuard } } }
    let s2 := armMc now (armPing now s1)
    (∀ (t addr : Word) (period : BitVec 13), 1 ≤ period.toNat → period.toNat ≤ 4096 →
      (s.par.pingRand = .aes → (pingOffset s.par t addr period).toNat
        = unLe ((aes128 0 (le32 t ++ le32 addr ++ List.replicate 8 0)).take 2) % period.toNat)
      ∧ (s.par.pingRand = .other → (pingOffset s.par t addr period).toNat
        = (Config.pingRand t addr).toNat % period.toNat))
    ∧ enterIdle now s = { s2 with r := { s2.r with rxSlot := .none }, trace := s.trace ++ [.radioSleep] }

/-- 45_classb_beacon.md R227, `ArmPing`: outside class B, or without parameters, the timer is disarmed; else `P.NEXT_N`
goes up to the first slot of the sequence that is not past, and the timer is armed for that slot, or disarmed at the end
of the period. -/
def Obligations.ArmPingProcedure : Prop :=
  ∀ (now : Word) (s : State),
    (s.r.deviceClass ≠ .b ∨ s.p.assigned = false →
      armPing now s = { s with t := { s.t with ping := { s.t.ping with armed := false } } })
    ∧ (s.r.deviceClass = .b → s.p.assigned = true → s.p.nextN.toNat ≤ s.p.pingNb.toNat →
        ∃ n : Byte, s.p.nextN.toNat ≤ n.toNat ∧ n.toNat ≤ s.p.pingNb.toNat
          ∧ (∀ j, s.p.nextN.toNat ≤ j → j < n.toNat → slotIsPast s s.p.offset s.p.pingPeriod now j)
          ∧ (n.toNat < s.p.pingNb.toNat → ¬ slotIsPast s s.p.offset s.p.pingPeriod now n.toNat)
          ∧ armPing now s = { s with
              p := { s.p with nextN := n }
              t := { s.t with ping :=
                if n.toNat < s.p.pingNb.toNat then
                  { armed := true, due := slotOpens s (s.p.offset.toNat + n.toNat * s.p.pingPeriod.toNat) }
                else { s.t.ping with armed := false } } })

/-- 45_classb_beacon.md R227, `ArmMc`: in class B every valid entry skips its past slots, and the timer is armed for
the entry whose next slot index is the smallest, the lowest entry on a tie; with no slot left anywhere it is disarmed.
The order of the two procedures does not matter. -/
def Obligations.ArmMcProcedure : Prop :=
  ∀ (now : Word) (s : State),
    let left := fun (mc : Vector McEntry 4) (h : BitVec 2) =>
      (at4 mc h).valid = true ∧ (at4 mc h).nextN.toNat < (at4 mc h).pingNb.toNat
    let index := fun (mc : Vector McEntry 4) (h : BitVec 2) =>
      (at4 mc h).offset.toNat + (at4 mc h).nextN.toNat * (at4 mc h).pingPeriod.toNat
    armMc now (armPing now s) = armPing now (armMc now s)
    ∧ (s.r.deviceClass ≠ .b → armMc now s = { s with t := { s.t with mcslot := { s.t.mcslot with armed := false } } })
    ∧ (s.r.deviceClass = .b → (∀ h, (at4 s.mc h).nextN.toNat ≤ (at4 s.mc h).pingNb.toNat) →
        ∃ mc : Vector McEntry 4,
          (∀ h, { at4 mc h with nextN := (at4 s.mc h).nextN } = at4 s.mc h
            ∧ ((at4 s.mc h).valid = false → (at4 mc h).nextN = (at4 s.mc h).nextN)
            ∧ ((at4 s.mc h).valid = true →
                (at4 s.mc h).nextN.toNat ≤ (at4 mc h).nextN.toNat
                ∧ (at4 mc h).nextN.toNat ≤ (at4 mc h).pingNb.toNat
                ∧ (∀ j, (at4 s.mc h).nextN.toNat ≤ j → j < (at4 mc h).nextN.toNat →
                    slotIsPast s (at4 s.mc h).offset (at4 s.mc h).pingPeriod now j)
                ∧ (left mc h → ¬ slotIsPast s (at4 s.mc h).offset (at4 s.mc h).pingPeriod now (at4 mc h).nextN.toNat)))
          ∧ ((∀ h, ¬ left mc h) → armMc now s = { s with
              mc := mc, t := { s.t with mcslot := { s.t.mcslot with armed := false } } })
          ∧ (∀ h, left mc h → (∀ j, left mc j → index mc h < index mc j ∨ (index mc h = index mc j ∧ h.toNat ≤ j.toNat)) →
              armMc now s = { s with
                mc := mc
                r := { s.r with mcslotOwner := h }
                t := { s.t with mcslot := { armed := true, due := slotOpens s (index mc h) } } }))

/-- 45_classb_beacon.md R216: whatever happens, the tracker moves only along the table's transitions, and `B.STATE` is
where the path ends. (`path` is the model's record, log entry 20; `SYS.INIT` clears it.) -/
def Obligations.BeaconOrder : Prop :=
  ∀ (i : Instr) (s t : State), exec i s = .next t → i ≠ .sysInit →
    ∃ l, t.path = s.path ++ l ∧ beaconPath s.b.state l = true ∧ t.b.state = l.getLastD s.b.state

/-- 45_classb_beacon.md R225, R228, R229 and R231: the ping-slot parameters, the two slot timers and the end of a slot.
`armPing` and `armMc` are stated by `ArmPingProcedure` and `ArmMcProcedure`, `pingOffset` by `EnterIdleProcedure`; the
Region's window is free (log entry 3). That `P.OFFSET` stays when no beacon places the slots, be it at or above the new
period, is log entry 27 (DEDUCED). The slot is answered in two bytes; in states no run reaches, whose slot index is
above them, those are its low 16 bits (log entry 21). -/
def Obligations.SlotCommands : Prop :=
  ∀ (per : BitVec 3) (now : Word) (outcome : BitVec 2) (s : State),
    (let period : BitVec 13 := BitVec.ofNat 13 (2 ^ (5 + per.toNat))
      let p : Ping := { s.p with periodicity := per, pingNb := BitVec.ofNat 8 (2 ^ (7 - per.toNat)),
                                 pingPeriod := period, assigned := true }
      let placed : State := { s with p := { p with offset := pingOffset s.par s.b.timeS s.r.devAddr period, nextN := 0 } }
      exec (.pingSetInfo per now) s = .next (answeredOk []
        (if s.b.run = true ∧ s.b.lastRxValid = true then
          (if s.b.state = .idle then armPing now placed else placed)
         else { s with p := p })))
    ∧ (let ready := s.b.run = true ∧ s.b.state = .idle ∧ s.r.deviceClass = .b ∧ s.p.assigned = true
          ∧ s.p.nextN.toNat < s.p.pingNb.toNat
      let k := s.p.offset.toNat + s.p.nextN.toNat * s.p.pingPeriod.toNat
      let yields := s.r.rxSlot ≠ .none ∨ (s.t.mcslot.armed = true ∧ s.t.mcslot.due = slotOpens s k)
      let w := regionWindow (.regionPingWindow s.p.symto) s
      let taken : State := { s with p := { s.p with nextN := s.p.nextN + 1 } }
      (¬ ready → exec (.pingTimer now) s = .next (failedWith .errParam s))
      ∧ (ready → yields → exec (.pingTimer now) s = .next (answeredOk ([1] ++ leBytes 2 k) (armPing now taken)))
      ∧ (ready → ¬ yields → ∃ u t, exec (.pingTimer now) s = .next t ∧ t = answeredOk ([0] ++ leBytes 2 k) (armPing now u)
          ∧ { u with script := s.script } = { taken with
              r := { s.r with rxSlot := .pingSlot }
              trace := s.trace ++ [.regionPingWindow s.p.symto, .radioStandby, .regionRxConfig .pingSlot 0 none,
                .radioReceive w.1.2] }))
    ∧ (let h := s.r.mcslotOwner
      let e := at4 s.mc h
      let ready := s.b.run = true ∧ s.b.state = .idle ∧ s.r.deviceClass = .b ∧ e.valid = true
          ∧ e.nextN.toNat < e.pingNb.toNat
      let k := e.offset.toNat + e.nextN.toNat * e.pingPeriod.toNat
      let yields := s.r.rxSlot = .win1 ∨ s.r.rxSlot = .win2 ∨ s.r.rxSlot = .beacon ∨ s.r.rxSlot = .mcSlot
      let w := regionWindow (.regionPingWindow s.p.symto) s
      let taken : State := { s with mc := set4 s.mc h { e with nextN := e.nextN + 1 } }
      (¬ ready → exec (.mcslotTimer now) s = .next (failedWith .errParam s))
      ∧ (ready → yields → exec (.mcslotTimer now) s = .next
          (answeredOk ([1] ++ leBytes 2 k ++ [h.setWidth 8]) (armMc now taken)))
      ∧ (ready → ¬ yields → ∃ u t, exec (.mcslotTimer now) s = .next t
          ∧ t = answeredOk ([0] ++ leBytes 2 k ++ [h.setWidth 8]) (armMc now u)
          ∧ { u with script := s.script } = { taken with
              r := { s.r with rxSlot := .mcSlot }
              trace := s.trace ++ [.regionPingWindow s.p.symto, .radioStandby,
                .regionRxConfig .mcSlot (h.setWidth 8) (some (e.freq, e.datarate)), .radioReceive w.1.2] }))
    ∧ exec (.slotRxDone outcome) s = .next
        (if s.r.rxSlot = .pingSlot ∨ s.r.rxSlot = .mcSlot then
          { answeredOk [(slotCode s.r.rxSlot).setWidth 8] s with
            r := { s.r with rxSlot := .none }, trace := s.trace ++ [.radioSleep] }
         else failedWith .errParam s)

/-- 45_classb_beacon.md R230: multicast slots have priority. After `PING.TIMER` a multicast slot that was open is still
open; with the multicast timer due at the same instant no unicast slot opens; and an open unicast slot gives way to
`MCSLOT.TIMER`. And with both timers' flags in one batch, and no earlier one, under the drain discipline of
60_exceptions.md R288 (`HandlesBatch`): the multicast slot opens and no unicast slot does. -/
def Obligations.MulticastPriority : Prop :=
  ∀ (now : Word) (s t : State),
    (exec (.pingTimer now) s = .next t → s.r.rxSlot = .mcSlot → t.r.rxSlot = .mcSlot)
    ∧ (exec (.pingTimer now) s = .next t → s.t.mcslot.armed = true →
        s.t.mcslot.due = slotOpens s (s.p.offset.toNat + s.p.nextN.toNat * s.p.pingPeriod.toNat) →
        t.r.rxSlot = s.r.rxSlot)
    ∧ (exec (.mcslotTimer now) s = .next t → t.status = .ok → s.r.rxSlot = .pingSlot ∨ s.r.rxSlot = .none →
        t.r.rxSlot = .mcSlot)
    ∧ (∀ (v : BitVec 16) (work : List (BitVec 4 × List Instr)), HandlesBatch v work → v &&& 0x01FF = 0 →
        (∃ cmds, (9, cmds) ∈ work ∧ cmds ≠ []) →
        s.b.run = true → s.b.state = .idle → s.r.deviceClass = .b →
        (at4 s.mc s.r.mcslotOwner).valid = true →
        (at4 s.mc s.r.mcslotOwner).nextN.toNat < (at4 s.mc s.r.mcslotOwner).pingNb.toNat →
        s.r.rxSlot = .none ∨ s.r.rxSlot = .pingSlot →
          ∃ u calls, runAll (work.flatMap Prod.snd) s = .next u ∧ u.trace = s.trace ++ calls
            ∧ (∃ arg phy, Call.regionRxConfig .mcSlot arg phy ∈ calls)
            ∧ ∀ arg phy, Call.regionRxConfig .pingSlot arg phy ∉ calls)

/-! ### System commands and events -/

/-- 46_system.md R251, 10_state.md R32: every identifier of the table reads its register, every other is refused.
`R.EVT` is read without being cleared (log entry 18). The numbers of the named values are those of R16, R21 and R25. -/
def Obligations.MibGet : Prop :=
  ∀ s : State,
    (∀ id v, (id, v) ∈ registerValues s → exec (.mibGet (BitVec.ofNat 8 id)) s = .next (answeredOk (le32 v) s))
    ∧ (∀ id : Byte, id.toNat ∉ (registerValues s).map Prod.fst →
        exec (.mibGet id) s = .next (failedWith .errParam s))
    ∧ (registerValues s).length = 99
    ∧ (∀ x : DeviceClass, (x, classCode x) ∈ [(.a, 0), (.b, 1), (.c, 2)])
    ∧ (∀ x : RxSlot, (x, slotCode x) ∈ [(.win1, 0), (.win2, 1), (.classC, 2), (.pingSlot, 4), (.mcSlot, 5), (.beacon, 6),
        (.none, 7)])
    ∧ (∀ x : BeaconState, (x, beaconCode x) ∈ [(.acquisition, 0), (.locked, 1), (.timeout, 2), (.beaconMissed, 3),
        (.reacquisition, 4), (.idle, 5), (.guard, 6), (.rx, 7), (.lost, 8)])

/-- 46_system.md R252: the settable registers and their legal values, the Region's word where it has one (free, log
entry 3), and nothing written otherwise. -/
def Obligations.MibSet : Prop :=
  ∀ (v : Word) (s : State),
    (∀ id : Byte, id.toNat ∉ (settableRegisters s.r v).map Prod.fst →
      exec (.mibSet id v) s = .next (failedWith .errParam s))
    ∧ (∀ id legal r, (id, legal, r) ∈ settableRegisters s.r v →
        let run := exec (.mibSet (BitVec.ofNat 8 id) v) s
        (legal = false → run = .next (failedWith .errParam s))
        ∧ (legal = true → (∀ kind, (id, kind) ∉ regionKinds) → run = .next { answeredOk [] s with r := r })
        ∧ (legal = true → ∀ kind, (id, kind) ∈ regionKinds →
            let asked := regionValidate kind (v.setWidth 8) s
            run = .next
              { (if asked.1 = true then { answeredOk [] s with r := r } else failedWith .errParam s) with
                trace := s.trace ++ [.regionValidate kind (v.setWidth 8)]
                script := asked.2.script }))

/-- 46_system.md R253: the switches there are, what each needs and what each does. Leaving class B has the effects of
`BCN.HALT` (log entry 26), with the model's record `path` (log entry 20). -/
def Obligations.SetClass : Prop :=
  ∀ (now : Word) (s : State),
    let run := fun c : BitVec 2 => exec (.sysSetClass c now) s
    let q : State := { s with
      r := { s.r with ackRetryCnt := 0 }
      t := { s.t with rx1 := { s.t.rx1 with armed := false }, rx2 := { s.t.rx2 with armed := false },
                      ackTo := { s.t.ackTo with armed := false }, dcDelay := { s.t.dcDelay with armed := false } } }
    run 3 = .next (failedWith .errParam s)
    ∧ run (classCode s.r.deviceClass) = .next (answeredOk [] s)
    ∧ (s.r.deviceClass = .b → run 2 = .next (failedWith .errParam s))
    ∧ (s.r.deviceClass = .c → run 1 = .next (failedWith .errParam s))
    ∧ (s.r.deviceClass = .a → s.b.run = false ∨ s.b.lastRxValid = false ∨ s.p.assigned = false →
        run 1 = .next (failedWith .errParam s))
    ∧ (s.r.deviceClass = .a → s.b.run = true → s.b.lastRxValid = true → s.p.assigned = true →
        let u : State := { q with r := { q.r with deviceClass := .b } }
        run 1 = .next (answeredOk [] (if s.b.state = .idle then armMc now (armPing now u) else u)))
    ∧ (s.r.deviceClass = .b →
        let listening := s.r.rxSlot = .beacon ∨ s.r.rxSlot = .pingSlot ∨ s.r.rxSlot = .mcSlot
        run 0 = .next { answeredOk [] q with
          b := { run := false, state := .acquisition, acqPending := false, lastRxValid := false, lastRx := 0, epoch := 0,
                 timeS := 0, symto := s.b.symto }
          t := { q.t with beacon := { s.t.beacon with armed := false }, ping := { s.t.ping with armed := false },
                          mcslot := { s.t.mcslot with armed := false } }
          r := { q.r with
            deviceClass := .a
            rxSlot := if listening then .none else s.r.rxSlot }
          path := s.path ++ [.acquisition]
          trace := s.trace ++ (if listening then [.radioSleep] else []) })
    ∧ (s.r.deviceClass = .a → s.b.run = true → run 2 = .next (failedWith .errBusy s))
    ∧ (s.r.deviceClass = .a → s.b.run = false → ∃ t, run 2 = .next t
        ∧ { t with script := s.script } = { answeredOk [] q with
            r := { q.r with deviceClass := .c, rxSlot := .classC }
            trace := s.trace ++ [.radioStandby, .regionRxConfig .classC s.r.chDatarate none, .radioReceive 0] })
    ∧ (s.r.deviceClass = .c → run 0 = .next { answeredOk [] q with
        r := { q.r with deviceClass := .a, rxSlot := .none }
        trace := s.trace ++ [.radioSleep] })

/-- 46_system.md R254, R255, 10_state.md R15 and 20_memory.md R51: a completion sets its flag; a timer that is armed and
due loses its arming and sets its flag, another does nothing, and neither does a bit of no source (log entry 11); the
drain answers the flags and clears them; no other instruction but `SYS.INIT` clears a flag, and only a post sets one. -/
def Obligations.EventFlags : Prop :=
  ∀ (clock : Word) (s : State),
    exec .evtDrain s = .next { answeredOk [s.evt.setWidth 8, (s.evt >>> 8).setWidth 8] s with evt := 0 }
    ∧ (∀ n : BitVec 4, n.toNat ≤ 4 → exec (.evtPost n clock) s = .next { s with evt := s.evt ||| (1#16 <<< n.toNat) })
    ∧ (∀ n : BitVec 4, n ∈ [5, 6, 7, 15] → exec (.evtPost n clock) s = .next s)
    ∧ (∀ (n : BitVec 4) (x : Timer) (ts : Timers),
        (n, x, ts) ∈ [(8#4, s.t.beacon, { s.t with beacon := { s.t.beacon with armed := false } }),
          (9#4, s.t.mcslot, { s.t with mcslot := { s.t.mcslot with armed := false } }),
          (10#4, s.t.ping, { s.t with ping := { s.t.ping with armed := false } }),
          (11#4, s.t.rx1, { s.t with rx1 := { s.t.rx1 with armed := false } }),
          (12#4, s.t.rx2, { s.t with rx2 := { s.t.rx2 with armed := false } }),
          (13#4, s.t.ackTo, { s.t with ackTo := { s.t.ackTo with armed := false } }),
          (14#4, s.t.dcDelay, { s.t with dcDelay := { s.t.dcDelay with armed := false } })] →
        exec (.evtPost n clock) s = .next
          (if x.armed = true ∧ (clock - x.due).toNat < 2 ^ 31
           then { s with t := ts, evt := s.evt ||| (1#16 <<< n.toNat) } else s))
    ∧ (∀ i t, exec i s = .next t → i ≠ .evtDrain → i ≠ .sysInit →
        s.evt &&& t.evt = s.evt ∧ ((∀ n c, i ≠ .evtPost n c) → t.evt = s.evt))

/-- 46_system.md R256 and R257, with the counters these two commands clear (log entry 14). `pingOffset` is stated by
`EnterIdleProcedure`. -/
def Obligations.MulticastEntries : Prop :=
  ∀ (h : BitVec 2) (addr freq : Word) (dr : Byte) (per : BitVec 3) (now : Word) (s : State),
    let add := exec (.mcAdd h addr freq dr per now) s
    let remove := exec (.mcRemove h now) s
    let cleared : Regs := { s.r with
      mcFcntDown := set4 s.r.mcFcntDown h 0
      fcntValid := s.r.fcntValid &&& ~~~(1#6 <<< (2 + h.toNat)) }
    let period : BitVec 13 := BitVec.ofNat 13 (2 ^ (5 + per.toNat))
    let e : McEntry := { valid := true, addr := addr, freq := freq, datarate := dr, periodicity := per,
                         pingNb := BitVec.ofNat 8 (2 ^ (7 - per.toNat)), pingPeriod := period, offset := 0, nextN := 0 }
    let placed : State := { s with
      mc := set4 s.mc h { e with offset := pingOffset s.par s.b.timeS addr period }, r := cleared }
    let freed : State := { s with
      mc := set4 s.mc h { valid := false, addr := 0, freq := 0, datarate := 0, periodicity := 0, pingNb := 0,
                          pingPeriod := 0, offset := 0, nextN := 0 }
      r := cleared }
    ((at4 s.mc h).valid = true → add = .next (failedWith .errParam s))
    ∧ ((at4 s.mc h).valid = false → add = .next (answeredOk []
        (if s.b.run = true ∧ s.b.lastRxValid = true then
          (if s.b.state = .idle then armMc now placed else placed)
         else { s with mc := set4 s.mc h e, r := cleared })))
    ∧ ((at4 s.mc h).valid = false → remove = .next (failedWith .errParam s))
    ∧ ((at4 s.mc h).valid = true → remove = .next (answeredOk []
        (if s.t.mcslot.armed = true ∧ s.r.mcslotOwner = h then armMc now freed else freed)))

/-! ### Wire layouts -/

/-- The HOST's stores. First its direct accesses, taken from the port by a step (10_state.md R10, R11, R23,
20_memory.md R44): a register of the frame descriptor or a length register takes the value, a buffer the bytes from an
index on, a key slot the key (`ZERO_KEY` keeps its content, log entry 24), and nothing else changes; a byte at or
above the capacity is the HOST's fault, and nothing is stored (log entry 8). Then the wire rows as HOST stores (log
entry 5), with the bit places of 30_encoding.md R62 to R70: a header byte goes to its register of the frame
descriptor, a frame to `RXBUF` with its length; nothing else changes, and a frame above the buffer's capacity is the
HOST's fault (20_memory.md R53). -/
def Obligations.WireRowsAreHostStores : Prop :=
  (∀ (s : State) (rest : List PortItem), s.par.Ok →
    let u : State := { s with port := rest }
    let sets := fun (a : HostAccess) (d : FrameDesc) => s.port = .host a :: rest → step s = .next { u with fd := d }
    (∀ v, sets (.mhdr v) { s.fd with mhdr := v }) ∧ (∀ v, sets (.joinEui v) { s.fd with joinEui := v })
    ∧ (∀ v, sets (.devEui v) { s.fd with devEui := v }) ∧ (∀ v, sets (.devNonce v) { s.fd with devNonce := v })
    ∧ (∀ v, sets (.rejoinType v) { s.fd with rejoinType := v }) ∧ (∀ v, sets (.rjCount v) { s.fd with rjCount := v })
    ∧ (∀ v, sets (.netId v) { s.fd with netId := v }) ∧ (∀ v, sets (.joinNonce v) { s.fd with joinNonce := v })
    ∧ (∀ v, sets (.devAddr v) { s.fd with devAddr := v }) ∧ (∀ v, sets (.dlSettings v) { s.fd with dlSettings := v })
    ∧ (∀ v, sets (.rxDelay v) { s.fd with rxDelay := v })
    ∧ (∀ v, sets (.cflistPresent v) { s.fd with cflistPresent := v })
    ∧ (∀ v, sets (.fctrl v) { s.fd with fctrl := v }) ∧ (∀ v, sets (.fcnt v) { s.fd with fcnt := v })
    ∧ (∀ v, sets (.fportPresent v) { s.fd with fportPresent := v }) ∧ (∀ v, sets (.fport v) { s.fd with fport := v })
    ∧ (∀ v, sets (.pldLen v) { s.fd with pldLen := v }) ∧ (∀ v, sets (.mic v) { s.fd with mic := v })
    ∧ (∀ v, s.port = .host (.txLen v) :: rest → step s = .next { u with txLen := v })
    ∧ (∀ v, s.port = .host (.rxLen v) :: rest → step s = .next { u with rxLen := v })
    ∧ (∀ (b : Buf) (off : Nat) (bytes : List Byte), s.port = .host (.buffer b off bytes) :: rest →
        let cap := if b = .fopts then 15 else if b = .cflist then 16 else s.par.phyMax
        (cap < off + bytes.length → step s = .fault .beyondCapacity)
        ∧ (off + bytes.length ≤ cap → ∃ t, step s = .next t ∧ { t with mem := s.mem } = u
            ∧ ∀ c j, t.byteOf c j = if c = b ∧ off ≤ j ∧ j < off + bytes.length then bytes[j - off]? else s.byteOf c j))
    ∧ (∀ (slot : KeySlot) (k : Key), s.port = .host (.key slot k) :: rest →
        ∃ t, step s = .next t ∧ { t with se := s.se } = u
          ∧ t.se.get slot = (if slot = .zeroKey then some 0 else some k)
          ∧ ∀ other, other ≠ slot → t.se.get other = s.se.get other))
  ∧ ∀ s : State,
    let mhdr := fun v : Byte => (.next { s with fd := { s.fd with mhdr := v } } : Out)
    let frame := fun (i : Instr) (bytes : List Byte) =>
      (s.par.phyMax < bytes.length → exec i s = .fault .beyondCapacity)
      ∧ (bytes.length ≤ s.par.phyMax → ∃ t, exec i s = .next t
          ∧ { t with mem := s.mem } = { s with rxLen := BitVec.ofNat 8 bytes.length } ∧ Stores s t (only .rx bytes))
    (∀ (mtype rfu : BitVec 3) (major : BitVec 2), exec (.mhdr mtype rfu major) s = mhdr (mtype ++ rfu ++ major))
    ∧ (∀ rfu : BitVec 3, exec (.mtypeJoinRequest rfu) s = mhdr (0b000#3 ++ rfu ++ 0b00#2)
        ∧ exec (.mtypeJoinAccept rfu) s = mhdr (0b001#3 ++ rfu ++ 0b00#2)
        ∧ exec (.mtypeUnconfirmedDataUp rfu) s = mhdr (0b010#3 ++ rfu ++ 0b00#2)
        ∧ exec (.mtypeUnconfirmedDataDown rfu) s = mhdr (0b011#3 ++ rfu ++ 0b00#2)
        ∧ exec (.mtypeConfirmedDataUp rfu) s = mhdr (0b100#3 ++ rfu ++ 0b00#2)
        ∧ exec (.mtypeConfirmedDataDown rfu) s = mhdr (0b101#3 ++ rfu ++ 0b00#2)
        ∧ exec (.mtypeRejoinRequest rfu) s = mhdr (0b110#3 ++ rfu ++ 0b00#2)
        ∧ exec (.mtypeProprietary rfu) s = mhdr (0b111#3 ++ rfu ++ 0b00#2))
    ∧ (∀ (neg : BitVec 1) (off : BitVec 3) (rx2 : BitVec 4),
        exec (.dlsettings neg off rx2) s = .next { s with fd := { s.fd with dlSettings := neg ++ off ++ rx2 } })
    ∧ (∀ (adr req ack clsB : BitVec 1) (n : BitVec 4),
        exec (.fctrl adr req ack clsB n) s =
          .next { s with fd := { s.fd with fctrl := adr ++ req ++ ack ++ clsB ++ n } })
    ∧ (∀ f : JoinRequest, frame (.frameJoinRequest f)
        ([f.mhdr] ++ revEui f.joinEui ++ revEui f.devEui ++ le16 f.devNonce ++ le32 f.mic))
    ∧ (∀ f : Rejoin02, frame (.frameRejoin02 f)
        ([f.mhdr, f.rejoinType] ++ le24 f.netId ++ revEui f.devEui ++ le16 f.rjCount ++ le32 f.mic))
    ∧ (∀ f : Rejoin1, frame (.frameRejoin1 f)
        ([f.mhdr, 1] ++ revEui f.joinEui ++ revEui f.devEui ++ le16 f.rjCount ++ le32 f.mic))
    ∧ (∀ f : JoinAccept, frame (.frameJoinAccept f)
        ([f.mhdr] ++ le24 f.joinNonce ++ le24 f.netId ++ le32 f.devAddr ++ [f.dlSettings, f.rxDelay]
          ++ f.cflist.getD [] ++ le32 f.mic))
    ∧ (∀ f : DataFrame, frame (.frameData f)
        ([f.mhdr] ++ le32 f.addr ++ [f.fctrl] ++ le16 f.fcnt ++ f.fopts ++ f.fport.toList ++ f.payload ++ le32 f.mic))
end

