-- ==== Sys2Proof/Laws/Bytes.lean ====
section
/-! SUPPORT. Byte strings and numbers: the two byte orders are inverses of each other, and how long things are. -/

namespace Sys2Proof

@[simp] theorem leBytes_length (n v : Nat) : (leBytes n v).length = n := by
  induction n generalizing v with
  | zero => rfl
  | succ n ih => simp [leBytes, ih]

@[simp] theorem beBytes_length (n v : Nat) : (beBytes n v).length = n := by simp [beBytes]

@[simp] theorem le16_length (v : Half) : (le16 v).length = 2 := leBytes_length _ _
@[simp] theorem le24_length (v : Tri) : (le24 v).length = 3 := leBytes_length _ _
@[simp] theorem le32_length (v : Word) : (le32 v).length = 4 := leBytes_length _ _
@[simp] theorem revEui_length (e : Eui) : (revEui e).length = 8 := leBytes_length _ _

/-- The number of a little-endian form. -/
theorem unLe_leBytes (n v : Nat) : unLe (leBytes n v) = v % 256 ^ n := by
  induction n generalizing v with
  | zero => simp [leBytes, unLe, Nat.mod_one]
  | succ n ih =>
    have hp : 256 ^ (n + 1) = 256 * 256 ^ n := by rw [Nat.pow_succ, Nat.mul_comm]
    rw [leBytes, unLe, ih, BitVec.toNat_ofNat, hp, Nat.mod_mul]

/-- A byte string is the little-endian form of its number. -/
theorem leBytes_unLe (s : List Byte) : leBytes s.length (unLe s) = s := by
  induction s with
  | nil => rfl
  | cons b r ih =>
    have hb : b.toNat < 256 := b.isLt
    rw [List.length_cons, leBytes, unLe, show (b.toNat + 256 * unLe r) / 256 = unLe r by omega, ih]
    congr 1
    apply BitVec.eq_of_toNat_eq
    rw [BitVec.toNat_ofNat]
    omega

/-- A number of `n` bytes is below `256 ^ n`. -/
theorem unLe_lt (s : List Byte) : unLe s < 256 ^ s.length := by
  induction s with
  | nil => simp [unLe]
  | cons b r ih =>
    have hb : b.toNat < 256 := b.isLt
    rw [List.length_cons, unLe, Nat.pow_succ]
    omega

/-- The value of a little-endian field of `8 n` bits. -/
theorem ofNat_unLe_leBytes {n : Nat} (v : BitVec (8 * n)) : BitVec.ofNat (8 * n) (unLe (leBytes n v.toNat)) = v := by
  have h : v.toNat < 256 ^ n := by simpa [Nat.pow_mul] using v.isLt
  rw [unLe_leBytes, Nat.mod_eq_of_lt h, BitVec.ofNat_toNat, BitVec.setWidth_eq]

/-- The number of a big-endian form. -/
theorem unBe_beBytes (n v : Nat) : unBe (beBytes n v) = v % 256 ^ n := by
  simp [unBe, beBytes, unLe_leBytes]

/-- A byte string is the big-endian form of its number. -/
theorem beBytes_unBe (s : List Byte) : beBytes s.length (unBe s) = s := by
  have h := leBytes_unLe s.reverse
  rw [List.length_reverse] at h
  rw [beBytes, unBe, h, List.reverse_reverse]

/-! ### Frames -/

@[simp] theorem joinRequest_length (f : JoinRequest) : f.bytes.length = 23 := by
  simp [JoinRequest.bytes, JoinRequest.body]

@[simp] theorem rejoin02_length (f : Rejoin02) : f.bytes.length = 19 := by simp [Rejoin02.bytes, Rejoin02.body]

@[simp] theorem rejoin1_length (f : Rejoin1) : f.bytes.length = 24 := by simp [Rejoin1.bytes, Rejoin1.body]

@[simp] theorem joinAccept_length (f : JoinAccept) : f.bytes.length = 17 + (f.cflist.getD []).length := by
  simp [JoinAccept.bytes, JoinAccept.body]; omega

@[simp] theorem dataFrame_length (f : DataFrame) :
    f.bytes.length = 12 + f.fopts.length + f.fport.toList.length + f.payload.length := by
  simp [DataFrame.bytes, DataFrame.body]; omega

namespace Machine

@[simp] theorem aes128_length (k : Key) (b : List Byte) : (aes128 k b).length = 16 := by
  unfold aes128; simp

@[simp] theorem aesCmac_length (k : Key) (m : List Byte) : (aesCmac k m).length = 16 := by
  unfold aesCmac; simp

end Machine
end Sys2Proof
end

