-- ==== Sys2Proof/Laws/State.lean ====
section
/-! SUPPORT. One lemma for each field and each named update of the state, so that no later proof unfolds a
record update, and the laws of the timers and of the four-entry files. -/

namespace Sys2Proof.Machine

/-! ### After the end of a command -/

@[simp] theorem reply_par (s : State) (st : Status) (res : List Byte) : (s.reply st res).par = s.par := rfl
@[simp] theorem reply_port (s : State) (st : Status) (res : List Byte) : (s.reply st res).port = s.port := rfl
@[simp] theorem reply_status (s : State) (st : Status) (res : List Byte) : (s.reply st res).status = st := rfl
@[simp] theorem reply_answer (s : State) (st : Status) (res : List Byte) : (s.reply st res).answer = st.code :: res := rfl
@[simp] theorem reply_fd (s : State) (st : Status) (res : List Byte) : (s.reply st res).fd = s.fd := rfl
@[simp] theorem reply_txLen (s : State) (st : Status) (res : List Byte) : (s.reply st res).txLen = s.txLen := rfl
@[simp] theorem reply_rxLen (s : State) (st : Status) (res : List Byte) : (s.reply st res).rxLen = s.rxLen := rfl
@[simp] theorem reply_mem (s : State) (st : Status) (res : List Byte) : (s.reply st res).mem = s.mem := rfl
@[simp] theorem reply_evt (s : State) (st : Status) (res : List Byte) : (s.reply st res).evt = s.evt := rfl
@[simp] theorem reply_r (s : State) (st : Status) (res : List Byte) : (s.reply st res).r = s.r := rfl
@[simp] theorem reply_mc (s : State) (st : Status) (res : List Byte) : (s.reply st res).mc = s.mc := rfl
@[simp] theorem reply_t (s : State) (st : Status) (res : List Byte) : (s.reply st res).t = s.t := rfl
@[simp] theorem reply_b (s : State) (st : Status) (res : List Byte) : (s.reply st res).b = s.b := rfl
@[simp] theorem reply_p (s : State) (st : Status) (res : List Byte) : (s.reply st res).p = s.p := rfl
@[simp] theorem reply_se (s : State) (st : Status) (res : List Byte) : (s.reply st res).se = s.se := rfl
@[simp] theorem reply_trace (s : State) (st : Status) (res : List Byte) : (s.reply st res).trace = s.trace := rfl
@[simp] theorem reply_path (s : State) (st : Status) (res : List Byte) : (s.reply st res).path = s.path := rfl
@[simp] theorem reply_script (s : State) (st : Status) (res : List Byte) : (s.reply st res).script = s.script := rfl

/-! ### After a collaborator call -/

@[simp] theorem log_par (s : State) (c : Call) : (s.log c).par = s.par := rfl
@[simp] theorem log_port (s : State) (c : Call) : (s.log c).port = s.port := rfl
@[simp] theorem log_status (s : State) (c : Call) : (s.log c).status = s.status := rfl
@[simp] theorem log_answer (s : State) (c : Call) : (s.log c).answer = s.answer := rfl
@[simp] theorem log_fd (s : State) (c : Call) : (s.log c).fd = s.fd := rfl
@[simp] theorem log_txLen (s : State) (c : Call) : (s.log c).txLen = s.txLen := rfl
@[simp] theorem log_rxLen (s : State) (c : Call) : (s.log c).rxLen = s.rxLen := rfl
@[simp] theorem log_mem (s : State) (c : Call) : (s.log c).mem = s.mem := rfl
@[simp] theorem log_evt (s : State) (c : Call) : (s.log c).evt = s.evt := rfl
@[simp] theorem log_r (s : State) (c : Call) : (s.log c).r = s.r := rfl
@[simp] theorem log_mc (s : State) (c : Call) : (s.log c).mc = s.mc := rfl
@[simp] theorem log_t (s : State) (c : Call) : (s.log c).t = s.t := rfl
@[simp] theorem log_b (s : State) (c : Call) : (s.log c).b = s.b := rfl
@[simp] theorem log_p (s : State) (c : Call) : (s.log c).p = s.p := rfl
@[simp] theorem log_se (s : State) (c : Call) : (s.log c).se = s.se := rfl
@[simp] theorem log_trace (s : State) (c : Call) : (s.log c).trace = s.trace ++ [c] := rfl
@[simp] theorem log_path (s : State) (c : Call) : (s.log c).path = s.path := rfl
@[simp] theorem log_script (s : State) (c : Call) : (s.log c).script = s.script := rfl

/-! ### After a buffer write -/

@[simp] theorem write_par (s : State) (b : Buf) (off : Nat) (bs : List Byte) : (s.write b off bs).par = s.par := rfl
@[simp] theorem write_port (s : State) (b : Buf) (off : Nat) (bs : List Byte) : (s.write b off bs).port = s.port := rfl
@[simp] theorem write_status (s : State) (b : Buf) (off : Nat) (bs : List Byte) : (s.write b off bs).status = s.status := rfl
@[simp] theorem write_answer (s : State) (b : Buf) (off : Nat) (bs : List Byte) : (s.write b off bs).answer = s.answer := rfl
@[simp] theorem write_fd (s : State) (b : Buf) (off : Nat) (bs : List Byte) : (s.write b off bs).fd = s.fd := rfl
@[simp] theorem write_txLen (s : State) (b : Buf) (off : Nat) (bs : List Byte) : (s.write b off bs).txLen = s.txLen := rfl
@[simp] theorem write_rxLen (s : State) (b : Buf) (off : Nat) (bs : List Byte) : (s.write b off bs).rxLen = s.rxLen := rfl
@[simp] theorem write_mem (s : State) (b : Buf) (off : Nat) (bs : List Byte) : (s.write b off bs).mem = s.mem.write b off bs := rfl
@[simp] theorem write_evt (s : State) (b : Buf) (off : Nat) (bs : List Byte) : (s.write b off bs).evt = s.evt := rfl
@[simp] theorem write_r (s : State) (b : Buf) (off : Nat) (bs : List Byte) : (s.write b off bs).r = s.r := rfl
@[simp] theorem write_mc (s : State) (b : Buf) (off : Nat) (bs : List Byte) : (s.write b off bs).mc = s.mc := rfl
@[simp] theorem write_t (s : State) (b : Buf) (off : Nat) (bs : List Byte) : (s.write b off bs).t = s.t := rfl
@[simp] theorem write_b (s : State) (b : Buf) (off : Nat) (bs : List Byte) : (s.write b off bs).b = s.b := rfl
@[simp] theorem write_p (s : State) (b : Buf) (off : Nat) (bs : List Byte) : (s.write b off bs).p = s.p := rfl
@[simp] theorem write_se (s : State) (b : Buf) (off : Nat) (bs : List Byte) : (s.write b off bs).se = s.se := rfl
@[simp] theorem write_trace (s : State) (b : Buf) (off : Nat) (bs : List Byte) : (s.write b off bs).trace = s.trace := rfl
@[simp] theorem write_path (s : State) (b : Buf) (off : Nat) (bs : List Byte) : (s.write b off bs).path = s.path := rfl
@[simp] theorem write_script (s : State) (b : Buf) (off : Nat) (bs : List Byte) : (s.write b off bs).script = s.script := rfl

/-! ### After a new slot identity -/

@[simp] theorem setSlot_par (s : State) (x : RxSlot) : (s.setSlot x).par = s.par := rfl
@[simp] theorem setSlot_port (s : State) (x : RxSlot) : (s.setSlot x).port = s.port := rfl
@[simp] theorem setSlot_status (s : State) (x : RxSlot) : (s.setSlot x).status = s.status := rfl
@[simp] theorem setSlot_answer (s : State) (x : RxSlot) : (s.setSlot x).answer = s.answer := rfl
@[simp] theorem setSlot_fd (s : State) (x : RxSlot) : (s.setSlot x).fd = s.fd := rfl
@[simp] theorem setSlot_txLen (s : State) (x : RxSlot) : (s.setSlot x).txLen = s.txLen := rfl
@[simp] theorem setSlot_rxLen (s : State) (x : RxSlot) : (s.setSlot x).rxLen = s.rxLen := rfl
@[simp] theorem setSlot_mem (s : State) (x : RxSlot) : (s.setSlot x).mem = s.mem := rfl
@[simp] theorem setSlot_evt (s : State) (x : RxSlot) : (s.setSlot x).evt = s.evt := rfl
@[simp] theorem setSlot_r (s : State) (x : RxSlot) : (s.setSlot x).r = { s.r with rxSlot := x } := rfl
@[simp] theorem setSlot_mc (s : State) (x : RxSlot) : (s.setSlot x).mc = s.mc := rfl
@[simp] theorem setSlot_t (s : State) (x : RxSlot) : (s.setSlot x).t = s.t := rfl
@[simp] theorem setSlot_b (s : State) (x : RxSlot) : (s.setSlot x).b = s.b := rfl
@[simp] theorem setSlot_p (s : State) (x : RxSlot) : (s.setSlot x).p = s.p := rfl
@[simp] theorem setSlot_se (s : State) (x : RxSlot) : (s.setSlot x).se = s.se := rfl
@[simp] theorem setSlot_trace (s : State) (x : RxSlot) : (s.setSlot x).trace = s.trace := rfl
@[simp] theorem setSlot_path (s : State) (x : RxSlot) : (s.setSlot x).path = s.path := rfl
@[simp] theorem setSlot_script (s : State) (x : RxSlot) : (s.setSlot x).script = s.script := rfl

/-! ### After a tracker transition -/

@[simp] theorem enter_par (s : State) (x : BeaconState) : (s.enter x).par = s.par := rfl
@[simp] theorem enter_port (s : State) (x : BeaconState) : (s.enter x).port = s.port := rfl
@[simp] theorem enter_status (s : State) (x : BeaconState) : (s.enter x).status = s.status := rfl
@[simp] theorem enter_answer (s : State) (x : BeaconState) : (s.enter x).answer = s.answer := rfl
@[simp] theorem enter_fd (s : State) (x : BeaconState) : (s.enter x).fd = s.fd := rfl
@[simp] theorem enter_txLen (s : State) (x : BeaconState) : (s.enter x).txLen = s.txLen := rfl
@[simp] theorem enter_rxLen (s : State) (x : BeaconState) : (s.enter x).rxLen = s.rxLen := rfl
@[simp] theorem enter_mem (s : State) (x : BeaconState) : (s.enter x).mem = s.mem := rfl
@[simp] theorem enter_evt (s : State) (x : BeaconState) : (s.enter x).evt = s.evt := rfl
@[simp] theorem enter_r (s : State) (x : BeaconState) : (s.enter x).r = s.r := rfl
@[simp] theorem enter_mc (s : State) (x : BeaconState) : (s.enter x).mc = s.mc := rfl
@[simp] theorem enter_t (s : State) (x : BeaconState) : (s.enter x).t = s.t := rfl
@[simp] theorem enter_b (s : State) (x : BeaconState) : (s.enter x).b = { s.b with state := x } := rfl
@[simp] theorem enter_p (s : State) (x : BeaconState) : (s.enter x).p = s.p := rfl
@[simp] theorem enter_se (s : State) (x : BeaconState) : (s.enter x).se = s.se := rfl
@[simp] theorem enter_trace (s : State) (x : BeaconState) : (s.enter x).trace = s.trace := rfl
@[simp] theorem enter_path (s : State) (x : BeaconState) : (s.enter x).path = s.path ++ [x] := rfl
@[simp] theorem enter_script (s : State) (x : BeaconState) : (s.enter x).script = s.script := rfl

/-! ### After a frame laid out in `TXBUF` -/

@[simp] theorem putTx_par (s : State) (msg : List Byte) : (s.putTx msg).par = s.par := rfl
@[simp] theorem putTx_port (s : State) (msg : List Byte) : (s.putTx msg).port = s.port := rfl
@[simp] theorem putTx_status (s : State) (msg : List Byte) : (s.putTx msg).status = s.status := rfl
@[simp] theorem putTx_answer (s : State) (msg : List Byte) : (s.putTx msg).answer = s.answer := rfl
@[simp] theorem putTx_fd (s : State) (msg : List Byte) : (s.putTx msg).fd = s.fd := rfl
@[simp] theorem putTx_txLen (s : State) (msg : List Byte) : (s.putTx msg).txLen = BitVec.ofNat 8 msg.length := rfl
@[simp] theorem putTx_rxLen (s : State) (msg : List Byte) : (s.putTx msg).rxLen = s.rxLen := rfl
@[simp] theorem putTx_mem (s : State) (msg : List Byte) : (s.putTx msg).mem = s.mem.write .tx 0 msg := rfl
@[simp] theorem putTx_evt (s : State) (msg : List Byte) : (s.putTx msg).evt = s.evt := rfl
@[simp] theorem putTx_r (s : State) (msg : List Byte) : (s.putTx msg).r = s.r := rfl
@[simp] theorem putTx_mc (s : State) (msg : List Byte) : (s.putTx msg).mc = s.mc := rfl
@[simp] theorem putTx_t (s : State) (msg : List Byte) : (s.putTx msg).t = s.t := rfl
@[simp] theorem putTx_b (s : State) (msg : List Byte) : (s.putTx msg).b = s.b := rfl
@[simp] theorem putTx_p (s : State) (msg : List Byte) : (s.putTx msg).p = s.p := rfl
@[simp] theorem putTx_se (s : State) (msg : List Byte) : (s.putTx msg).se = s.se := rfl
@[simp] theorem putTx_trace (s : State) (msg : List Byte) : (s.putTx msg).trace = s.trace := rfl
@[simp] theorem putTx_path (s : State) (msg : List Byte) : (s.putTx msg).path = s.path := rfl
@[simp] theorem putTx_script (s : State) (msg : List Byte) : (s.putTx msg).script = s.script := rfl

/-! ### Timers -/

/-- The timer just set reads as it was set. -/
@[simp] theorem get_set_same (t : Timers) (x : TimerName) (v : Timer) : (t.set x v).get x = v := by
  cases x <;> rfl

/-- The other timers read as before. -/
theorem get_set_other (t : Timers) {x y : TimerName} (v : Timer) (h : y ≠ x) : (t.set x v).get y = t.get y := by
  cases x <;> cases y <;> first | rfl | exact absurd rfl h

/-- An armed timer. -/
@[simp] theorem get_arm_same (t : Timers) (x : TimerName) (d : Word) :
    (t.arm x d).get x = { armed := true, due := d } := by simp [Timers.arm]

/-- Arming one timer leaves the others. -/
theorem get_arm_other (t : Timers) {x y : TimerName} (d : Word) (h : y ≠ x) : (t.arm x d).get y = t.get y :=
  get_set_other t _ h

/-- A disarmed timer keeps its due time. -/
@[simp] theorem get_disarm_same (t : Timers) (x : TimerName) :
    (t.disarm x).get x = { armed := false, due := (t.get x).due } := by simp [Timers.disarm]

/-- Disarming one timer leaves the others. -/
theorem get_disarm_other (t : Timers) {x y : TimerName} (h : y ≠ x) : (t.disarm x).get y = t.get y :=
  get_set_other t _ h

/-- The class A timers are disarmed together, the class B timers stay. -/
theorem get_disarmClassA (t : Timers) (x : TimerName) :
    t.disarmClassA.get x =
      match x with
      | .rx1 => { t.rx1 with armed := false }
      | .rx2 => { t.rx2 with armed := false }
      | .ackTo => { t.ackTo with armed := false }
      | .dcDelay => { t.dcDelay with armed := false }
      | .beacon => t.beacon
      | .ping => t.ping
      | .mcslot => t.mcslot := by
  cases x <;> rfl

/-- The class B timers are disarmed together, the class A timers stay. -/
theorem get_disarmClassB (t : Timers) (x : TimerName) :
    t.disarmClassB.get x =
      match x with
      | .rx1 => t.rx1
      | .rx2 => t.rx2
      | .ackTo => t.ackTo
      | .dcDelay => t.dcDelay
      | .beacon => { t.beacon with armed := false }
      | .ping => { t.ping with armed := false }
      | .mcslot => { t.mcslot with armed := false } := by
  cases x <;> rfl

/-! ### Files of four -/

/-- The entry just replaced. -/
@[simp] theorem at4_set4_same {α : Type} (v : Vector α 4) (h : BitVec 2) (x : α) : at4 (set4 v h x) h = x := by
  simp [at4, set4]

/-- The other entries. -/
theorem at4_set4_other {α : Type} (v : Vector α 4) {h j : BitVec 2} (x : α) (hj : j ≠ h) :
    at4 (set4 v h x) j = at4 v j := by
  have : h.toNat ≠ j.toNat := fun e => hj (BitVec.eq_of_toNat_eq e.symm)
  simp [at4, set4, this]

/-- A map over the file, entry by entry. -/
@[simp] theorem at4_map {α β : Type} (v : Vector α 4) (f : α → β) (h : BitVec 2) : at4 (v.map f) h = f (at4 v h) := by
  simp [at4]

/-! ### Slots of the Secure Element -/

/-- A key stored is the key found, but in `ZERO_KEY`. -/
theorem get_put_same (k : KeyStore) {x : KeySlot} (v : Key) (h : x ≠ .zeroKey) : (k.put x v).get x = some v := by
  cases x <;> simp_all [KeyStore.put, KeyStore.get]

/-- Storing a key leaves the other slots. -/
theorem get_put_other (k : KeyStore) {x y : KeySlot} (v : Key) (h : y ≠ x) : (k.put x v).get y = k.get y := by
  cases x <;> cases y <;> simp_all [KeyStore.put, KeyStore.get, at4_set4_other]

/-- `ZERO_KEY` reads as the zero key whatever is stored. -/
@[simp] theorem get_zeroKey (k : KeyStore) : k.get .zeroKey = some 0 := rfl

end Sys2Proof.Machine
end

