-- ==== Sys2Proof/Laws/Memory.lean ====
section
/-! SUPPORT. The laws of the buffers: a read after a write of the same bytes, a write that leaves the other
bytes, and the canonical form that every write keeps. -/

namespace Sys2Proof.Machine

/-! ### One byte -/

/-- The byte just entered. -/
theorem readCell_insertCell_same (d : Option Byte) (m : List Host.Cell) (i : Nat) (v : Byte) :
    readCell d (insertCell m i v) i = some v := by
  induction m with
  | nil => simp [insertCell, readCell]
  | cons c m ih =>
    obtain ⟨a, w⟩ := c
    unfold insertCell
    split
    · simp [readCell]
    · split
      · simp [readCell]
      · have : a ≠ i := by omega
        simp [readCell, this, ih]

/-- A byte at another address. -/
theorem readCell_insertCell_other (d : Option Byte) (m : List Host.Cell) {i j : Nat} (v : Byte) (h : j ≠ i) :
    readCell d (insertCell m i v) j = readCell d m j := by
  induction m with
  | nil => simp [insertCell, readCell, h.symm]
  | cons c m ih =>
    obtain ⟨a, w⟩ := c
    unfold insertCell
    split
    · simp [readCell, h.symm]
    · split
      · rename_i _ e
        subst e
        simp [readCell, h.symm]
      · simp only [readCell, ih]

/-- An entry taken out: the address reads as unlisted, every other as before. -/
theorem readCell_remove (d : Option Byte) (m : List Host.Cell) (i j : Nat) :
    readCell d (m.filter fun c => c.1 ≠ i) j = if j = i then d else readCell d m j := by
  induction m with
  | nil => simp [readCell]
  | cons c m ih =>
    obtain ⟨a, w⟩ := c
    by_cases ha : a = i
    · subst ha
      rw [List.filter_cons_of_neg (by simp), ih]
      by_cases hj : j = a
      · simp [hj]
      · simp [readCell, hj, Ne.symm hj]
    · rw [List.filter_cons_of_pos (by simpa using ha), readCell, ih]
      by_cases hj : j = i
      · subst hj; simp [ha]
      · simp [readCell, hj]

/-- The byte just written. -/
@[simp] theorem readCell_writeCell_same (d : Option Byte) (m : List Host.Cell) (i : Nat) (v : Byte) :
    readCell d (writeCell d m i v) i = some v := by
  unfold writeCell
  split
  · next h => rw [readCell_remove, if_pos rfl, h]
  · exact readCell_insertCell_same d m i v

/-- A byte at another address. -/
theorem readCell_writeCell_other (d : Option Byte) (m : List Host.Cell) {i j : Nat} (v : Byte) (h : j ≠ i) :
    readCell d (writeCell d m i v) j = readCell d m j := by
  unfold writeCell
  split
  · rw [readCell_remove, if_neg h]
  · exact readCell_insertCell_other d m v h

/-- Where an unlisted address has a value, every address has. -/
theorem readCell_isSome {d : Option Byte} (hd : d.isSome) (m : List Host.Cell) (i : Nat) : (readCell d m i).isSome := by
  induction m with
  | nil => exact hd
  | cons c m ih => obtain ⟨a, w⟩ := c; unfold readCell; split <;> simp [ih]

/-! ### Byte strings -/

/-- A byte outside the string written. -/
theorem readCell_writeCells_other (d : Option Byte) (m : List Host.Cell) (i j : Nat) (bs : List Byte)
    (h : j < i ∨ i + bs.length ≤ j) : readCell d (writeCells d m i bs) j = readCell d m j := by
  induction bs generalizing m i with
  | nil => rfl
  | cons v r ih =>
    simp only [List.length_cons] at h
    rw [writeCells, ih _ _ (by omega), readCell_writeCell_other _ _ _ (by omega)]

/-- A byte of the string written. -/
theorem readCell_writeCells_same (d : Option Byte) (m : List Host.Cell) (i : Nat) (bs : List Byte) (k : Nat) (h : k < bs.length) :
    readCell d (writeCells d m i bs) (i + k) = bs[k]? := by
  induction bs generalizing m i k with
  | nil => simp at h
  | cons v r ih =>
    cases k with
    | zero => rw [writeCells, Nat.add_zero, readCell_writeCells_other _ _ _ _ _ (by omega)]; simp
    | succ k =>
      have := ih (writeCell d m i v) (i + 1) k (by simpa using h)
      rw [writeCells, ← Nat.add_assoc, Nat.add_right_comm, this]; simp

/-- A read is determined by its bytes. -/
theorem readCells_congr {d : Option Byte} {m m' : List Host.Cell} {i n : Nat}
    (h : ∀ j, i ≤ j → j < i + n → readCell d m j = readCell d m' j) : readCells d m i n = readCells d m' i n := by
  induction n generalizing i with
  | zero => rfl
  | succ n ih =>
    have hr : readCells d m (i + 1) n = readCells d m' (i + 1) n := ih fun j h1 h2 => h j (by omega) (by omega)
    simp only [readCells, h i (by omega) (by omega), hr]

/-- A read of a list of known bytes. -/
theorem readCells_of_bytes (d : Option Byte) (m : List Host.Cell) (i : Nat) (bs : List Byte)
    (h : ∀ k, k < bs.length → readCell d m (i + k) = bs[k]?) : readCells d m i bs.length = some bs := by
  induction bs generalizing i with
  | nil => rfl
  | cons v r ih =>
    have h0 := h 0 (by simp)
    have hr := ih (i + 1) fun k hk => by simpa [Nat.add_assoc, Nat.add_comm 1 k] using h (k + 1) (by simpa using hk)
    simp only [Nat.add_zero, List.getElem?_cons_zero] at h0
    simp only [List.length_cons, readCells, h0, hr]

/-- The bytes just written are the bytes read. -/
@[simp] theorem readCells_writeCells (d : Option Byte) (m : List Host.Cell) (i : Nat) (bs : List Byte) :
    readCells d (writeCells d m i bs) i bs.length = some bs :=
  readCells_of_bytes _ _ _ _ fun k hk => readCell_writeCells_same d m i bs k hk

/-- A read says how many bytes it gives. -/
theorem length_of_readCells {d : Option Byte} {m : List Host.Cell} {i n : Nat} {bs : List Byte} (h : readCells d m i n = some bs) :
    bs.length = n := by
  induction n generalizing i bs with
  | zero => simp only [readCells, Option.some.injEq] at h; subst h; rfl
  | succ n ih =>
    simp only [readCells] at h
    split at h
    · next v r _ hr => cases h; simp [ih hr]
    · cases h

/-- The bytes of a read, one by one. -/
theorem readCells_getElem? {d : Option Byte} {m : List Host.Cell} {i n k : Nat} {bs : List Byte} (h : readCells d m i n = some bs)
    (hk : k < n) : bs[k]? = readCell d m (i + k) := by
  induction n generalizing i k bs with
  | zero => omega
  | succ n ih =>
    simp only [readCells] at h
    split at h
    · next v r hv hr =>
      cases h
      cases k with
      | zero => simp [hv]
      | succ k => rw [List.getElem?_cons_succ, ih hr (by omega), Nat.add_assoc, Nat.add_comm 1 k]
    · cases h

/-- Where an unlisted address has a value, every read gives its bytes. -/
theorem readCells_isSome {d : Option Byte} (hd : d.isSome) (m : List Host.Cell) (i n : Nat) :
    readCells d m i n = some ((List.range n).map fun k => (readCell d m (i + k)).getD 0) := by
  have := readCells_of_bytes d m i ((List.range n).map fun k => (readCell d m (i + k)).getD 0) fun k hk => by
    have hk : k < n := by simpa using hk
    obtain ⟨v, hv⟩ := Option.isSome_iff_exists.1 (readCell_isSome hd m (i + k))
    simp [hk, hv]
  simpa using this

/-! ### The five buffers -/

/-- The buffer written. -/
@[simp] theorem buf_write_same (m : Memory) (b : Buf) (off : Nat) (bs : List Byte) :
    (m.write b off bs).buf b = writeCells (unlisted b) (m.buf b) off bs := by
  cases b <;> rfl

/-- The other buffers: each is an address space of its own. -/
theorem buf_write_other (m : Memory) {b c : Buf} (off : Nat) (bs : List Byte) (h : c ≠ b) :
    (m.write b off bs).buf c = m.buf c := by
  cases b <;> cases c <;> first | rfl | exact absurd rfl h

/-- The bytes just written are the bytes read. -/
@[simp] theorem read_write_same (s : State) (b : Buf) (off : Nat) (bs : List Byte) :
    (s.write b off bs).read b off bs.length = some bs := by
  simp [State.read]

/-- A write leaves every byte outside the string written. -/
theorem byteOf_write_other (s : State) (b c : Buf) (off j : Nat) (bs : List Byte)
    (h : c ≠ b ∨ j < off ∨ off + bs.length ≤ j) : (s.write b off bs).byteOf c j = s.byteOf c j := by
  by_cases e : c = b
  · subst e
    simp only [State.byteOf, write_mem, buf_write_same]
    exact readCell_writeCells_other _ _ _ _ _ (by tauto)
  · simp [State.byteOf, buf_write_other _ _ _ e]

/-- A read of an array of the frame descriptor always gives its bytes (10_state.md R12). -/
theorem read_fdArray (s : State) {b : Buf} (h : b = .fopts ∨ b = .cflist) (n : Nat) :
    s.read b 0 n = some (s.fdArray b n) := by
  have hd : (unlisted b).isSome := by rcases h with rfl | rfl <;> rfl
  simpa [State.read, State.fdArray, State.byteOf] using readCells_isSome hd (s.mem.buf b) 0 n

@[simp] theorem fdArray_length (s : State) (b : Buf) (n : Nat) : (s.fdArray b n).length = n := by simp [State.fdArray]

/-! ### The canonical form -/

/-- The entries of a buffer after one byte is entered. -/
theorem mem_insertCell {m : List Host.Cell} {i : Nat} {v : Byte} {c : Host.Cell} (h : c ∈ insertCell m i v) :
    c = (i, v) ∨ c ∈ m := by
  induction m with
  | nil => exact .inl (List.mem_singleton.1 h)
  | cons d m ih =>
    obtain ⟨a, w⟩ := d
    unfold insertCell at h
    split at h
    · exact List.mem_cons.1 h
    · split at h
      · exact (List.mem_cons.1 h).imp id (List.mem_cons_of_mem _)
      · rcases List.mem_cons.1 h with h | h
        · exact .inr (h ▸ List.mem_cons_self)
        · exact (ih h).imp id (List.mem_cons_of_mem _)

/-- Entering one byte keeps the addresses in rising order. -/
theorem pairwise_insertCell {m : List Host.Cell} (i : Nat) (v : Byte) (h : (m.map Prod.fst).Pairwise (· < ·)) :
    ((insertCell m i v).map Prod.fst).Pairwise (· < ·) := by
  induction m with
  | nil => simp [insertCell]
  | cons d m ih =>
    obtain ⟨a, w⟩ := d
    rw [List.map_cons, List.pairwise_cons] at h
    unfold insertCell
    split
    · next lt =>
      simp only [List.map_cons, List.pairwise_cons, List.mem_cons]
      exact ⟨fun x hx => hx.elim (fun e => e ▸ lt) fun hx => Nat.lt_trans lt (h.1 x hx), h⟩
    · split
      · next e => subst e; simpa only [List.map_cons, List.pairwise_cons] using h
      · next nlt ne =>
        simp only [List.map_cons, List.pairwise_cons]
        refine ⟨fun x hx => ?_, ih h.2⟩
        obtain ⟨c, hc, rfl⟩ := List.mem_map.1 hx
        rcases mem_insertCell hc with e | hc
        · subst e; show a < i; omega
        · exact h.1 _ (List.mem_map_of_mem hc)

/-- Writing one byte below the capacity keeps the canonical form. -/
theorem cellsWf_writeCell {d : Option Byte} {cap : Nat} {m : List Host.Cell} (h : cellsWf d cap m) {i : Nat} (v : Byte)
    (hi : i < cap) : cellsWf d cap (writeCell d m i v) := by
  unfold writeCell
  split
  · exact ⟨h.1.sublist (List.filter_sublist.map _), fun c hc => h.2 c (List.mem_of_mem_filter hc)⟩
  · next hv =>
    exact ⟨pairwise_insertCell i v h.1, fun c hc => (mem_insertCell hc).elim (fun e => e ▸ ⟨hi, hv⟩) (h.2 c)⟩

/-- Writing a string below the capacity keeps the canonical form. -/
theorem cellsWf_writeCells {d : Option Byte} {cap : Nat} {m : List Host.Cell} (h : cellsWf d cap m) {i : Nat}
    (bs : List Byte) (hi : i + bs.length ≤ cap) : cellsWf d cap (writeCells d m i bs) := by
  induction bs generalizing m i with
  | nil => exact h
  | cons v r ih =>
    simp only [List.length_cons] at hi
    exact ih (cellsWf_writeCell h v (by omega)) (by omega)

/-- The canonical form, buffer by buffer. -/
theorem memory_wf_iff (par : Params) (m : Memory) : m.wf par ↔ ∀ b, cellsWf (unlisted b) (capacity par b) (m.buf b) :=
  ⟨fun ⟨h1, h2, h3, h4, h5⟩ b => by cases b <;> assumption,
   fun h => ⟨h .tx, h .rx, h .pld, h .fopts, h .cflist⟩⟩

/-- `MemWrite` within the capacity keeps the canonical form. -/
theorem wf_write {par : Params} {m : Memory} (h : m.wf par) (b : Buf) (off : Nat) (bs : List Byte)
    (hb : off + bs.length ≤ capacity par b) : (m.write b off bs).wf par := by
  rw [memory_wf_iff] at h ⊢
  intro c
  by_cases e : c = b
  · subst e; rw [buf_write_same]; exact cellsWf_writeCells (h c) bs hb
  · rw [buf_write_other _ _ _ e]; exact h c

/-- The memory after reset is in canonical form. -/
theorem wf_reset (par : Params) : Memory.reset.wf par :=
  (memory_wf_iff _ _).2 fun b => by
    cases b <;> exact ⟨List.Pairwise.nil, fun _ h => nomatch h⟩

end Sys2Proof.Machine
end

