-- ==== Sys2Proof/Laws/Calls.lean ====
section
/-! SUPPORT. What a call on a collaborator can do, said once for each: it adds itself to the trace, may take an
answer held ready, and changes nothing of the block; `SE.derive_store` alone also writes one key slot. -/

namespace Sys2Proof.Machine

/-- Two states that differ at most in the calls made and the answers held ready. -/
def CallsOnly (s s' : State) : Prop := { s with trace := s'.trace, script := s'.script } = s'

/-- Two states that differ at most in these and in the key slots of the Secure Element. -/
def SeOnly (s s' : State) : Prop := { s with trace := s'.trace, script := s'.script, se := s'.se } = s'

theorem CallsOnly.refl (s : State) : CallsOnly s s := rfl

theorem CallsOnly.trans {s s1 s2 : State} (h1 : CallsOnly s s1) (h2 : CallsOnly s1 s2) : CallsOnly s s2 := by
  unfold CallsOnly at *
  rw [← h1] at h2
  exact h2

theorem SeOnly.refl (s : State) : SeOnly s s := rfl

theorem SeOnly.trans {s s1 s2 : State} (h1 : SeOnly s s1) (h2 : SeOnly s1 s2) : SeOnly s s2 := by
  unfold SeOnly at *
  rw [← h1] at h2
  exact h2

theorem CallsOnly.seOnly {s s' : State} (h : CallsOnly s s') : SeOnly s s' := by
  unfold CallsOnly at h
  rw [← h]
  rfl

/-! ### The Secure Element -/

theorem seCall_frame (c : Call) (s : State) : CallsOnly s (seCall c s).2 := by
  unfold seCall; dsimp only; split <;> rfl

/-- A call is added to the trace, whatever it answers. -/
theorem seCall_trace (c : Call) (s : State) : (seCall c s).2.trace = s.trace ++ [c] := by
  unfold seCall; dsimp only; split <;> rfl

theorem seCall_se (c : Call) (s : State) : (seCall c s).2.se = s.se := by
  unfold seCall; dsimp only; split <;> rfl

theorem seCall_par (c : Call) (s : State) : (seCall c s).2.par = s.par := by
  unfold seCall; dsimp only; split <;> rfl

/-- `SE.ecb` answers a block, whatever the parameters make of it. -/
@[simp] theorem seBlock_length (par : Params) (k : Key) (block : List Byte) : (seBlock par k block).length = 16 := by
  unfold seBlock; split <;> simp

theorem seEcb_frame (block : List Byte) (slot : KeySlot) (s : State) : CallsOnly s (seEcb block slot s).2 := by
  have h := seCall_frame (.seEcb block slot) s
  unfold seEcb; split <;> simp_all

/-- What `SE.ecb` answers: nothing, or the block it computes under the key in the slot. -/
theorem seEcb_some {block out : List Byte} {slot : KeySlot} {s s' : State} (h : seEcb block slot s = (some out, s')) :
    ∃ k, s.se.get slot = some k ∧ out = seBlock s.par k block := by
  unfold seEcb at h
  have hs := seCall_se (.seEcb block slot) s
  have hp := seCall_par (.seEcb block slot) s
  split at h
  · cases h
  · next s1 e =>
    rw [e] at hs hp
    cases hk : s1.se.get slot with
    | none => simp [hk] at h
    | some k => simp only [hk, Option.map_some, Prod.mk.injEq, Option.some.injEq] at h; exact ⟨k, hs ▸ hk, hp ▸ h.1.symm⟩

theorem seCmac_frame (pre : Option (List Byte)) (data : List Byte) (slot : KeySlot) (s : State) :
    CallsOnly s (seCmac pre data slot s).2 := by
  have h := seCall_frame (.seCmac pre data slot) s
  unfold seCmac; split <;> simp_all

/-- What `SE.cmac` answers: nothing, or the tag under the key in the slot. -/
theorem seCmac_some {pre : Option (List Byte)} {data : List Byte} {slot : KeySlot} {s s' : State} {c : Word}
    (h : seCmac pre data slot s = (some c, s')) :
    ∃ k, s.se.get slot = some k ∧ c = seTag s.par k pre data := by
  unfold seCmac at h
  have hs := seCall_se (.seCmac pre data slot) s
  have hp := seCall_par (.seCmac pre data slot) s
  split at h
  · cases h
  · next s1 e =>
    rw [e] at hs hp
    cases hk : s1.se.get slot with
    | none => simp [hk] at h
    | some k => simp only [hk, Option.map_some, Prod.mk.injEq, Option.some.injEq] at h; exact ⟨k, hs ▸ hk, hp ▸ h.1.symm⟩

theorem seDeriveStore_frame (block : List Byte) (root target : KeySlot) (s : State) :
    SeOnly s (seDeriveStore block root target s).2 := by
  have h := (seCall_frame (.seDeriveStore block root target) s).seOnly
  unfold seDeriveStore
  split
  · simp_all
  · next s1 e =>
    rw [e] at h
    split
    · exact h
    · exact h.trans rfl

/-- What `SE.derive_store` does to the key slots: it stores the key it computes in the target slot, or
it fails and leaves every slot. -/
theorem seDeriveStore_se (block : List Byte) (root target : KeySlot) (s : State) :
    ((seDeriveStore block root target s).1 = none ∧ (seDeriveStore block root target s).2.se = s.se)
    ∨ ∃ k, s.se.get root = some k ∧ (seDeriveStore block root target s).1 = some ()
        ∧ (seDeriveStore block root target s).2.se = s.se.put target (seKey s.par k block) := by
  have hs := seCall_se (.seDeriveStore block root target) s
  have hp := seCall_par (.seDeriveStore block root target) s
  unfold seDeriveStore
  split
  · next e => rw [e] at hs; exact .inl ⟨rfl, hs⟩
  · next s1 e =>
    rw [e] at hs hp
    split
    · exact .inl ⟨rfl, hs⟩
    · next k hk => exact .inr ⟨k, hs ▸ hk, rfl, by simp_all⟩

/-! ### Sequences of calls -/

theorem seThen_frame {α β : Type} {s : State} {r : Option α × State} {k : α → State → Option β × State}
    (hr : CallsOnly s r.2) (hk : ∀ a s', CallsOnly s' (k a s').2) : CallsOnly s (seThen r k).2 := by
  unfold seThen
  split
  · exact hr
  · exact hr.trans (hk _ _)

theorem keystream_frame (slot : KeySlot) (down : Bool) (addr fcnt : Word) (n i : Nat) (s : State) :
    CallsOnly s (keystream slot down addr fcnt n i s).2 := by
  induction n generalizing i s with
  | zero => exact .refl s
  | succ n ih => exact seThen_frame (seEcb_frame _ _ _) fun _ s => seThen_frame (ih _ s) fun _ s => .refl s

theorem payloadCrypt_frame (slot : KeySlot) (down : Bool) (addr fcnt : Word) (x : List Byte) (s : State) :
    CallsOnly s (payloadCrypt slot down addr fcnt x s).2 :=
  seThen_frame (keystream_frame _ _ _ _ _ _ _) fun _ s => .refl s

theorem foptsMaybeCrypt_frame (crypt down : Bool) (addr fcnt : Word) (f : List Byte) (s : State) :
    CallsOnly s (foptsMaybeCrypt crypt down addr fcnt f s).2 := by
  unfold foptsMaybeCrypt
  split
  · exact seThen_frame (seEcb_frame _ _ _) fun _ s => .refl s
  · exact .refl s

theorem uplinkMic_frame (v : Variant) (addr fcnt : Word) (msg : List Byte) (conf : Half) (dr ch : Byte) (s : State) :
    CallsOnly s (uplinkMic v addr fcnt msg conf dr ch s).2 := by
  cases v
  · exact seCmac_frame _ _ _ _
  · exact seThen_frame (seCmac_frame _ _ _ _) fun _ s => seThen_frame (seCmac_frame _ _ _ _) fun _ s => .refl s

theorem downlinkMic_frame (addr fcnt : Word) (msg : List Byte) (conf : Half) (slot : KeySlot) (s : State) :
    CallsOnly s (downlinkMic addr fcnt msg conf slot s).2 := seCmac_frame _ _ _ _

theorem joinacceptMic_frame (v : Variant) (q : Byte) (e : Eui) (n : Half) (body : List Byte) (s : State) :
    CallsOnly s (joinacceptMic v q e n body s).2 := by
  cases v <;> exact seCmac_frame _ _ _ _

theorem deriveAll_frame (l : List (List Byte × KeySlot × KeySlot)) (s : State) : SeOnly s (deriveAll l s).2 := by
  induction l generalizing s with
  | nil => exact .refl s
  | cons x l ih =>
    obtain ⟨b, r, t⟩ := x
    have h := seDeriveStore_frame b r t s
    unfold deriveAll seThen
    split
    · next e => rw [e] at h; exact h
    · next e => rw [e] at h; exact h.trans (ih _)

/-! ### The Region -/

theorem regionValidate_frame (kind : ParamKind) (v : Byte) (s : State) : CallsOnly s (regionValidate kind v s).2 := by
  unfold regionValidate; dsimp only; split <;> rfl

theorem regionNextChannel_frame (now : Word) (dr : Byte) (j : Bool) (w : Word) (s : State) :
    CallsOnly s (regionNextChannel now dr j w s).2 := by
  unfold regionNextChannel; dsimp only; split <;> rfl

theorem regionAdrNext_frame (c : Word) (dr pw : Byte) (s : State) : CallsOnly s (regionAdrNext c dr pw s).2 := by
  unfold regionAdrNext; dsimp only; split <;> rfl

theorem regionNextLowerDr_frame (dr : Byte) (s : State) : CallsOnly s (regionNextLowerDr dr s).2 := by
  unfold regionNextLowerDr; dsimp only; split <;> rfl

theorem regionWindow_frame (c : Call) (s : State) : CallsOnly s (regionWindow c s).2 := by
  unfold regionWindow; dsimp only; split <;> rfl

theorem regionRxConfig_frame (slot : RxSlot) (arg : Byte) (mcPhy : Option (Word × Byte)) (s : State) :
    CallsOnly s (regionRxConfig slot arg mcPhy s).2 := by
  unfold regionRxConfig; dsimp only; split <;> rfl

/-- A reception opened is two calls and nothing else. -/
theorem listen_frame (slot : RxSlot) (arg : Byte) (mcPhy : Option (Word × Byte)) (t : Word) (s : State) :
    CallsOnly s (listen slot arg mcPhy t s) :=
  (regionRxConfig_frame slot arg mcPhy s).trans rfl

/-! ### How a command ends -/

/-- A failing command answers a next state in which only the status and the answer are new. -/
theorem raise_eq (st : Status) (s : State) : raise st s = .next (s.reply st []) := rfl

theorem done_eq (res : List Byte) (s : State) : done res s = .next (s.reply .ok res) := rfl

/-- What `orSeFailed` can give: the failed call's status, or what comes after it. -/
theorem orSeFailed_cases {α : Type} (r : Option α × State) (k : α → State → Out) :
    (r.1 = none ∧ orSeFailed r k = raise .errSeFailed r.2) ∨ ∃ a, r.1 = some a ∧ orSeFailed r k = k a r.2 := by
  obtain ⟨o, s⟩ := r
  cases o with
  | none => exact .inl ⟨rfl, rfl⟩
  | some a => exact .inr ⟨a, rfl, rfl⟩

/-- What `orFault` can give: the fault of an unwritten byte, or what comes after the read. -/
theorem orFault_cases {α : Type} (o : Option α) (k : α → Out) :
    (o = none ∧ orFault o k = .fault .unwrittenByte) ∨ ∃ a, o = some a ∧ orFault o k = k a := by
  cases o with
  | none => exact .inl ⟨rfl, rfl⟩
  | some a => exact .inr ⟨a, rfl, rfl⟩

/-- What the data-frame reader can give: a parse error, the fault of an unwritten byte, or what comes after. -/
theorem withDataFrame_cases (s : State) (k : List Byte → DataFrame → Out) :
    withDataFrame s k = raise .errParse s ∨ withDataFrame s k = .fault .unwrittenByte
    ∨ ∃ b, s.frame = some b ∧ 12 + foptsLen (byteAt b 5) ≤ s.rxLen.toNat ∧ s.rxLen.toNat ≤ s.par.phyMax
      ∧ withDataFrame s k = k b (.ofBytes b) := by
  unfold withDataFrame
  split
  · exact .inl rfl
  · next h12 =>
    rcases orFault_cases (s.byteOf .rx 5) (fun c =>
      if s.rxLen.toNat < 12 + foptsLen c then raise .errParse s
      else orFault s.frame fun b => k b (.ofBytes b)) with ⟨_, h⟩ | ⟨c, hc, h⟩
    · exact .inr (.inl h)
    · rw [h]
      split
      · exact .inl rfl
      · next hlen =>
        rcases orFault_cases s.frame (fun b => k b (.ofBytes b)) with ⟨_, h⟩ | ⟨b, hb, h⟩
        · exact .inr (.inl h)
        · have hcap : s.rxLen.toNat ≤ s.par.phyMax := by
            simp only [State.rxEnds, decide_eq_true_eq, not_or, not_lt] at h12
            exact h12.2
          refine .inr (.inr ⟨b, hb, ?_, hcap, h⟩)
          have : byteAt b 5 = c := by
            have := readCells_getElem? (show readCells none s.mem.rx 0 s.rxLen.toNat = some b from hb) (k := 5) (by omega)
            simp only [State.byteOf, Memory.buf, unlisted] at hc
            simp_all [byteAt, List.getD_eq_getElem?_getD]
          rw [this]
          omega

end Sys2Proof.Machine
end

