-- ==== Sys2Proof/Laws/Claims.lean ====
section
/-! SUPPORT. The small lemmas of the terms the claims use: command sequences, and sequences of calls on the Secure
Element. -/

namespace Sys2Proof.Machine

/-! ### Commands issued one after another -/

@[simp] theorem runAll_nil (s : State) : runAll [] s = .next s := rfl

theorem runAll_cons (i : Instr) (is : List Instr) (s : State) :
    runAll (i :: is) s = match exec i s with
      | .next t => runAll is t
      | o => o := rfl

/-- A sequence that goes on after its first part goes on from the state that part has left. -/
theorem runAll_append (is js : List Instr) (s : State) :
    runAll (is ++ js) s = match runAll is s with
      | .next t => runAll js t
      | o => o := by
  induction is generalizing s with
  | nil => rfl
  | cons i is ih =>
    simp only [List.cons_append, runAll_cons]
    cases exec i s with
    | next t => exact ih t
    | fault f => rfl
    | refused r => rfl

/-! ### Calls on the Secure Element -/

/-! The values the operations compute are those the claims name. -/

theorem seBlock_eq (par : Params) (k : Key) (block : List Byte) : seBlock par k block = encrypted par k block := by
  unfold seBlock encrypted; split <;> simp_all

theorem seTag_eq (par : Params) (k : Key) (pre : Option (List Byte)) (data : List Byte) :
    seTag par k pre data = tag32 par k pre data := by
  unfold seTag tag32; split <;> simp_all [numAt, slice]

theorem seKey_eq (par : Params) (k : Key) (block : List Byte) : seKey par k block = derived par k block := by
  unfold seKey derived; split <;> simp_all [keyOf]

@[simp] theorem encrypted_length (par : Params) (k : Key) (block : List Byte) :
    (encrypted par k block).length = 16 := by
  unfold encrypted; split <;> simp

@[simp] theorem seAccepts_nil (s : State) : SeAccepts [] s := trivial

@[simp] theorem seAccepts_cons (c : Call) (cs : List Call) (s : State) :
    SeAccepts (c :: cs) s ↔ (seCall c s).1 = false ∧ SeAccepts cs (seCall c s).2 := Iff.rfl

/-- Calls for which the Secure Element holds as many acceptances ready are accepted. -/
theorem seAccepts_of_ready (calls : List Call) :
    ∀ (s : State) (n : Nat) (rest : List Bool), s.script.seFail = List.replicate n false ++ rest → calls.length ≤ n →
      SeAccepts calls s := by
  induction calls with
  | nil => intros; trivial
  | cons c cs ih =>
    intro s n rest hs hn
    obtain ⟨m, rfl⟩ : ∃ m, n = m + 1 := ⟨n - 1, by simp at hn; omega⟩
    simp only [List.replicate_succ, List.cons_append] at hs
    exact ⟨by simp [seCall, State.log, hs], ih _ m rest (by simp [seCall, State.log, hs]) (by simpa using hn)⟩

/-- A call uses a slot that holds no key. -/
def callOnEmpty (s : State) (c : Call) : Bool :=
  match callSlot c with
  | some slot => (s.se.get slot).isNone
  | none => false

/-- `UsesEmptySlot` is a test of each call on its own. -/
theorem usesEmptySlot_iff (calls : List Call) (s : State) :
    UsesEmptySlot calls s ↔ calls.any (callOnEmpty s) = true := by
  simp only [UsesEmptySlot, List.any_eq_true, callOnEmpty]
  constructor
  · rintro ⟨c, hc, slot, h, e⟩
    exact ⟨c, hc, by simp [h, e]⟩
  · rintro ⟨c, hc, h⟩
    cases hs : callSlot c with
    | none => simp [hs] at h
    | some slot => exact ⟨c, hc, slot, hs, by simpa [hs] using h⟩

/-- A sequence fails at a call whose slot is empty, if it is the first such call and none before it is refused. -/
theorem seFailsAt_of_empty (calls : List Call) (n : Nat) (s : State) (hn : n < calls.length)
    (hacc : SeAccepts (calls.take n) s) (hkeys : (calls.take n).any (callOnEmpty s) = false)
    (hempty : (calls.take (n + 1)).any (callOnEmpty s) = true) : SeFailsAt calls n s :=
  ⟨hn, hacc, by simpa [usesEmptySlot_iff] using hkeys, fun _ => (usesEmptySlot_iff _ _).2 hempty⟩

/-- A sequence fails at the call that the Secure Element refuses, if no call before it is on an empty slot. -/
theorem seFailsAt_of_refused (calls : List Call) (n : Nat) (s : State) (rest : List Bool) (hn : n < calls.length)
    (hs : s.script.seFail = List.replicate n false ++ true :: rest)
    (hkeys : (calls.take n).any (callOnEmpty s) = false) : SeFailsAt calls n s := by
  refine ⟨hn, seAccepts_of_ready _ s n _ hs (by simp), by simpa [usesEmptySlot_iff] using hkeys, fun h => ?_⟩
  exfalso
  have key : ∀ (n : Nat) (calls : List Call) (s : State), n < calls.length →
      s.script.seFail = List.replicate n false ++ true :: rest → ¬ SeAccepts (calls.take (n + 1)) s := by
    intro n
    induction n with
    | zero =>
      intro calls s hn hs
      cases calls with
      | nil => simp at hn
      | cons c cs => simp [seCall, State.log, hs]
    | succ n ih =>
      intro calls s hn hs
      cases calls with
      | nil => simp at hn
      | cons c cs =>
        rw [List.take_succ_cons, seAccepts_cons]
        rintro ⟨-, h⟩
        exact ih cs _ (by simpa using hn) (by simp [seCall, State.log, hs, List.replicate_succ]) h
  exact key n calls s hn hs h

end Sys2Proof.Machine
end

