-- ==== Sys2Proof/Laws/PerInstr.lean ====
section
/-! SUPPORT. A law stated for every instruction and proved constructor by constructor: how many bytes its encoding
has, against the smallest and the largest operand record its rule allows (30_encoding.md R61 to R75). -/

namespace Sys2Proof.Laws.EncodedSize

set_option Elab.async false

/-- The least and the greatest number of bytes of an instruction's encoding at its port. -/
def bounds : Instr → Nat × Nat
  | .sysInit => (1, 1)
  | .mibGet .. => (2, 2)
  | .mibSet .. => (6, 6)
  | .sysSetClass .. => (6, 6)
  | .evtDrain => (1, 1)
  | .mcAdd .. => (16, 16)
  | .mcRemove .. => (6, 6)
  | .serJoinreq .. => (2, 2)
  | .serRejoin .. => (2, 2)
  | .serJoinacc .. => (2, 2)
  | .serData .. => (2, 2)
  | .parseJoinreq => (1, 1)
  | .parseRejoin => (1, 1)
  | .parseJoinacc => (1, 1)
  | .parseData => (1, 1)
  | .frameClassify => (1, 1)
  | .frameMatchAddr => (1, 1)
  | .framePlaceCmds .. => (3, 258)
  | .portCheck .. => (3, 3)
  | .secUplink .. => (8, 8)
  | .secDownlink .. => (11, 11)
  | .secJoinreq .. => (2, 2)
  | .secRejoin .. => (2, 2)
  | .secJoinacc .. => (12, 12)
  | .secDeriveSession .. => (18, 18)
  | .secDeriveMc .. => (2, 19)
  | .secDeriveLifetime .. => (9, 9)
  | .fcntNextUp => (1, 1)
  | .fcntReconstruct .. => (4, 4)
  | .fcntReset .. => (3, 3)
  | .dcTxUpdate .. => (10, 10)
  | .dcSchedule .. => (6, 6)
  | .adrNext => (1, 1)
  | .adrUplinkEnd .. => (2, 2)
  | .ackStart .. => (2, 2)
  | .ackTimeout => (1, 1)
  | .ackReceived => (1, 1)
  | .rxwTxDone .. => (6, 6)
  | .rxwOpen .. => (2, 2)
  | .rxwRxDone .. => (2, 2)
  | .bcnAcquire .. => (5, 5)
  | .bcnRxBeacon .. => (13, 13)
  | .bcnRxTimeout .. => (5, 5)
  | .bcnTimer .. => (5, 5)
  | .bcnHalt => (1, 1)
  | .pingSetInfo .. => (6, 6)
  | .pingTimer .. => (5, 5)
  | .mcslotTimer .. => (5, 5)
  | .slotRxDone .. => (2, 2)
  | .evtPost .. => (5, 5)
  | .mhdr .. => (1, 1)
  | .mtypeJoinRequest .. => (1, 1)
  | .mtypeJoinAccept .. => (1, 1)
  | .mtypeUnconfirmedDataUp .. => (1, 1)
  | .mtypeUnconfirmedDataDown .. => (1, 1)
  | .mtypeConfirmedDataUp .. => (1, 1)
  | .mtypeConfirmedDataDown .. => (1, 1)
  | .mtypeRejoinRequest .. => (1, 1)
  | .mtypeProprietary .. => (1, 1)
  | .frameJoinRequest .. => (23, 23)
  | .frameRejoin02 .. => (19, 19)
  | .frameRejoin1 .. => (24, 24)
  | .frameJoinAccept .. => (17, 33)
  | .dlsettings .. => (1, 1)
  | .frameData .. => (12, 255)
  | .fctrl .. => (1, 1)

/-- The encoding of a well-formed instruction is as long as its rule allows. -/
def Statement (i : Instr) : Prop :=
  i.wellFormed = true → (bounds i).1 ≤ (encode i).length ∧ (encode i).length ≤ (bounds i).2

theorem sysInit : Statement .sysInit := by
  intro _
  simp [encode, bounds]

theorem mibGet : ∀ a, Statement (.mibGet a) := by
  intro _ _
  simp [encode, bounds]

theorem mibSet : ∀ a b, Statement (.mibSet a b) := by
  intro _ _ _
  simp [encode, bounds]

theorem sysSetClass : ∀ a b, Statement (.sysSetClass a b) := by
  intro _ _ _
  simp [encode, bounds]

theorem evtDrain : Statement .evtDrain := by
  intro _
  simp [encode, bounds]

theorem mcAdd : ∀ a b c d e f, Statement (.mcAdd a b c d e f) := by
  intro _ _ _ _ _ _ _
  simp [encode, bounds]

theorem mcRemove : ∀ a b, Statement (.mcRemove a b) := by
  intro _ _ _
  simp [encode, bounds]

theorem serJoinreq : ∀ a, Statement (.serJoinreq a) := by
  intro _ _
  simp [encode, bounds]

theorem serRejoin : ∀ a, Statement (.serRejoin a) := by
  intro _ _
  simp [encode, bounds]

theorem serJoinacc : ∀ a, Statement (.serJoinacc a) := by
  intro _ _
  simp [encode, bounds]

theorem serData : ∀ a, Statement (.serData a) := by
  intro _ _
  simp [encode, bounds]

theorem parseJoinreq : Statement .parseJoinreq := by
  intro _
  simp [encode, bounds]

theorem parseRejoin : Statement .parseRejoin := by
  intro _
  simp [encode, bounds]

theorem parseJoinacc : Statement .parseJoinacc := by
  intro _
  simp [encode, bounds]

theorem parseData : Statement .parseData := by
  intro _
  simp [encode, bounds]

theorem frameClassify : Statement .frameClassify := by
  intro _
  simp [encode, bounds]

theorem frameMatchAddr : Statement .frameMatchAddr := by
  intro _
  simp [encode, bounds]

theorem framePlaceCmds : ∀ a b, Statement (.framePlaceCmds a b) := by
  intro a b h
  simp only [Instr.wellFormed, decide_eq_true_eq] at h
  simp only [encode, bounds, List.length_append, List.length_cons, leBytes_length, List.length_nil]
  omega

theorem portCheck : ∀ a b, Statement (.portCheck a b) := by
  intro _ _ _
  simp [encode, bounds]

theorem secUplink : ∀ a b c d, Statement (.secUplink a b c d) := by
  intro _ _ _ _ _
  simp [encode, bounds]

theorem secDownlink : ∀ a b c d, Statement (.secDownlink a b c d) := by
  intro _ _ _ _ _
  simp [encode, bounds]

theorem secJoinreq : ∀ a, Statement (.secJoinreq a) := by
  intro _ _
  simp [encode, bounds]

theorem secRejoin : ∀ a, Statement (.secRejoin a) := by
  intro _ _
  simp [encode, bounds]

theorem secJoinacc : ∀ a b c, Statement (.secJoinacc a b c) := by
  intro _ _ _ _
  simp [encode, bounds]

theorem secDeriveSession : ∀ a b c d e, Statement (.secDeriveSession a b c d e) := by
  intro _ _ _ _ _ _
  simp [encode, bounds]

theorem secDeriveMc : ∀ a, Statement (.secDeriveMc a) := by
  intro a _
  cases a <;> simp [encode, bounds]

theorem secDeriveLifetime : ∀ a, Statement (.secDeriveLifetime a) := by
  intro _ _
  simp [encode, bounds]

theorem fcntNextUp : Statement .fcntNextUp := by
  intro _
  simp [encode, bounds]

theorem fcntReconstruct : ∀ a b, Statement (.fcntReconstruct a b) := by
  intro _ _ _
  simp [encode, bounds]

theorem fcntReset : ∀ a b, Statement (.fcntReset a b) := by
  intro _ _ _
  simp [encode, bounds]

theorem dcTxUpdate : ∀ a b c, Statement (.dcTxUpdate a b c) := by
  intro _ _ _ _
  simp [encode, bounds]

theorem dcSchedule : ∀ a b, Statement (.dcSchedule a b) := by
  intro _ _ _
  simp [encode, bounds]

theorem adrNext : Statement .adrNext := by
  intro _
  simp [encode, bounds]

theorem adrUplinkEnd : ∀ a, Statement (.adrUplinkEnd a) := by
  intro _ _
  simp [encode, bounds]

theorem ackStart : ∀ a, Statement (.ackStart a) := by
  intro _ _
  simp [encode, bounds]

theorem ackTimeout : Statement .ackTimeout := by
  intro _
  simp [encode, bounds]

theorem ackReceived : Statement .ackReceived := by
  intro _
  simp [encode, bounds]

theorem rxwTxDone : ∀ a b, Statement (.rxwTxDone a b) := by
  intro _ _ _
  simp [encode, bounds]

theorem rxwOpen : ∀ a, Statement (.rxwOpen a) := by
  intro _ _
  simp [encode, bounds]

theorem rxwRxDone : ∀ a, Statement (.rxwRxDone a) := by
  intro _ _
  simp [encode, bounds]

theorem bcnAcquire : ∀ a, Statement (.bcnAcquire a) := by
  intro _ _
  simp [encode, bounds]

theorem bcnRxBeacon : ∀ a b c, Statement (.bcnRxBeacon a b c) := by
  intro _ _ _ _
  simp [encode, bounds]

theorem bcnRxTimeout : ∀ a, Statement (.bcnRxTimeout a) := by
  intro _ _
  simp [encode, bounds]

theorem bcnTimer : ∀ a, Statement (.bcnTimer a) := by
  intro _ _
  simp [encode, bounds]

theorem bcnHalt : Statement .bcnHalt := by
  intro _
  simp [encode, bounds]

theorem pingSetInfo : ∀ a b, Statement (.pingSetInfo a b) := by
  intro _ _ _
  simp [encode, bounds]

theorem pingTimer : ∀ a, Statement (.pingTimer a) := by
  intro _ _
  simp [encode, bounds]

theorem mcslotTimer : ∀ a, Statement (.mcslotTimer a) := by
  intro _ _
  simp [encode, bounds]

theorem slotRxDone : ∀ a, Statement (.slotRxDone a) := by
  intro _ _
  simp [encode, bounds]

theorem evtPost : ∀ a b, Statement (.evtPost a b) := by
  intro _ _ _
  simp [encode, bounds]

theorem mhdr : ∀ a b c, Statement (.mhdr a b c) := by
  intro _ _ _ _
  simp [encode, bounds]

theorem mtypeJoinRequest : ∀ a, Statement (.mtypeJoinRequest a) := by
  intro _ _
  simp [encode, bounds]

theorem mtypeJoinAccept : ∀ a, Statement (.mtypeJoinAccept a) := by
  intro _ _
  simp [encode, bounds]

theorem mtypeUnconfirmedDataUp : ∀ a, Statement (.mtypeUnconfirmedDataUp a) := by
  intro _ _
  simp [encode, bounds]

theorem mtypeUnconfirmedDataDown : ∀ a, Statement (.mtypeUnconfirmedDataDown a) := by
  intro _ _
  simp [encode, bounds]

theorem mtypeConfirmedDataUp : ∀ a, Statement (.mtypeConfirmedDataUp a) := by
  intro _ _
  simp [encode, bounds]

theorem mtypeConfirmedDataDown : ∀ a, Statement (.mtypeConfirmedDataDown a) := by
  intro _ _
  simp [encode, bounds]

theorem mtypeRejoinRequest : ∀ a, Statement (.mtypeRejoinRequest a) := by
  intro _ _
  simp [encode, bounds]

theorem mtypeProprietary : ∀ a, Statement (.mtypeProprietary a) := by
  intro _ _
  simp [encode, bounds]

theorem frameJoinRequest : ∀ a, Statement (.frameJoinRequest a) := by
  intro _ _
  simp [encode, bounds]

theorem frameRejoin02 : ∀ a, Statement (.frameRejoin02 a) := by
  intro _ _
  simp [encode, bounds]

theorem frameRejoin1 : ∀ a, Statement (.frameRejoin1 a) := by
  intro _ _
  simp [encode, bounds]

theorem frameJoinAccept : ∀ a, Statement (.frameJoinAccept a) := by
  intro f h
  simp only [Instr.wellFormed, JoinAccept.wellFormed] at h
  simp only [encode, bounds, joinAccept_length]
  cases hc : f.cflist with
  | none => simp
  | some l => simp [hc] at h; simp [h, cflistLen]

theorem dlsettings : ∀ a b c, Statement (.dlsettings a b c) := by
  intro _ _ _ _
  simp [encode, bounds]

theorem frameData : ∀ a, Statement (.frameData a) := by
  intro f h
  simp only [Instr.wellFormed, DataFrame.wellFormed, Bool.and_eq_true, decide_eq_true_eq] at h
  simp only [encode, bounds, dataFrame_length]
  omega

theorem fctrl : ∀ a b c d e, Statement (.fctrl a b c d e) := by
  intro _ _ _ _ _ _
  simp [encode, bounds]

end Sys2Proof.Laws.EncodedSize
end

