-- ==== Sys2Proof/Laws/Slots.lean ====
section
/-! SUPPORT. What the slot procedures of the class B scheduler can do: the search for the next slot, the two
arming procedures, and the two endings of a beacon reception. -/

namespace Sys2Proof.Machine

/-! ### The search for a slot that is not past (45_classb_beacon.md R227) -/

/-- Slot `n` of a sequence is past at `rel` ms after the epoch. -/
def slotPast (par : Params) (offset : BitVec 12) (period : BitVec 13) (rel : Nat) (n : Byte) : Prop :=
  par.beaconReserved + slotIndex offset period n * par.slotLen < rel

/-- The search goes up, stays at or below the count, passes only past slots, and with enough steps stops at the
end or at a slot that is not past. -/
theorem skipPast_spec (par : Params) (offset : BitVec 12) (period : BitVec 13) (nb : Byte) (rel fuel : Nat) (n : Byte)
    (hn : n.toNat ≤ nb.toNat) :
    n.toNat ≤ (skipPast par offset period nb rel fuel n).toNat
    ∧ (skipPast par offset period nb rel fuel n).toNat ≤ nb.toNat
    ∧ (∀ j : Byte, n.toNat ≤ j.toNat → j.toNat < (skipPast par offset period nb rel fuel n).toNat →
        slotPast par offset period rel j)
    ∧ (nb.toNat ≤ n.toNat + fuel → (skipPast par offset period nb rel fuel n).toNat < nb.toNat →
        ¬ slotPast par offset period rel (skipPast par offset period nb rel fuel n)) := by
  induction fuel generalizing n with
  | zero => simp only [skipPast]; exact ⟨by omega, hn, fun j h1 h2 => by omega, fun h1 h2 => by omega⟩
  | succ fuel ih =>
    rw [skipPast]
    split
    · next h =>
      obtain ⟨hlt, hp⟩ := h
      have hlt : n.toNat < nb.toNat := hlt
      have e : (n + 1).toNat = n.toNat + 1 := by
        have := nb.isLt
        rw [BitVec.toNat_add]; simp; omega
      obtain ⟨h1, h2, h3, h4⟩ := ih (n + 1) (by omega)
      refine ⟨by omega, h2, fun j hj hj' => ?_, fun hf => h4 (by omega)⟩
      by_cases hjn : j.toNat = n.toNat
      · rw [BitVec.eq_of_toNat_eq hjn]; exact hp
      · exact h3 j (by omega) hj'
    · next h =>
      refine ⟨by omega, hn, fun j h1 h2 => by omega, fun _ hlt hp => h ⟨?_, hp⟩⟩
      exact hlt

/-- A search from beyond the end stays where it is. -/
theorem skipPast_beyond (par : Params) (offset : BitVec 12) (period : BitVec 13) (nb : Byte) (rel fuel : Nat) (n : Byte)
    (hn : nb.toNat ≤ n.toNat) : skipPast par offset period nb rel fuel n = n := by
  cases fuel with
  | zero => rfl
  | succ fuel =>
    rw [skipPast, if_neg]
    rintro ⟨h, _⟩
    have h : n.toNat < nb.toNat := h
    omega

/-! ### The arming procedures -/

/-- `ArmPing` writes `P.NEXT_N` and `T.PING` and nothing else. -/
theorem armPing_frame (now : Word) (s : State) :
    armPing now s = { s with p := { s.p with nextN := (armPing now s).p.nextN },
                             t := { s.t with ping := (armPing now s).t.ping } } := by
  unfold armPing
  split
  · rfl
  · dsimp only
    split <;> rfl

/-- `ArmMc` writes the `NEXT_N` of the entries, `R.MCSLOT_OWNER` and `T.MCSLOT` and nothing else. -/
theorem armMc_frame (now : Word) (s : State) :
    armMc now s = { s with mc := (armMc now s).mc, r := { s.r with mcslotOwner := (armMc now s).r.mcslotOwner },
                           t := { s.t with mcslot := (armMc now s).t.mcslot } } := by
  unfold armMc
  split
  · rfl
  · dsimp only
    split <;> rfl

/-! What each leaves, field by field. -/

@[simp] theorem armPing_par (now : Word) (s : State) : (armPing now s).par = s.par := by rw [armPing_frame]
@[simp] theorem armPing_port (now : Word) (s : State) : (armPing now s).port = s.port := by rw [armPing_frame]
@[simp] theorem armPing_status (now : Word) (s : State) : (armPing now s).status = s.status := by rw [armPing_frame]
@[simp] theorem armPing_answer (now : Word) (s : State) : (armPing now s).answer = s.answer := by rw [armPing_frame]
@[simp] theorem armPing_fd (now : Word) (s : State) : (armPing now s).fd = s.fd := by rw [armPing_frame]
@[simp] theorem armPing_txLen (now : Word) (s : State) : (armPing now s).txLen = s.txLen := by rw [armPing_frame]
@[simp] theorem armPing_rxLen (now : Word) (s : State) : (armPing now s).rxLen = s.rxLen := by rw [armPing_frame]
@[simp] theorem armPing_mem (now : Word) (s : State) : (armPing now s).mem = s.mem := by rw [armPing_frame]
@[simp] theorem armPing_evt (now : Word) (s : State) : (armPing now s).evt = s.evt := by rw [armPing_frame]
@[simp] theorem armPing_r (now : Word) (s : State) : (armPing now s).r = s.r := by rw [armPing_frame]
@[simp] theorem armPing_mc (now : Word) (s : State) : (armPing now s).mc = s.mc := by rw [armPing_frame]
@[simp] theorem armPing_b (now : Word) (s : State) : (armPing now s).b = s.b := by rw [armPing_frame]
@[simp] theorem armPing_se (now : Word) (s : State) : (armPing now s).se = s.se := by rw [armPing_frame]
@[simp] theorem armPing_trace (now : Word) (s : State) : (armPing now s).trace = s.trace := by rw [armPing_frame]
@[simp] theorem armPing_path (now : Word) (s : State) : (armPing now s).path = s.path := by rw [armPing_frame]
@[simp] theorem armPing_script (now : Word) (s : State) : (armPing now s).script = s.script := by rw [armPing_frame]
@[simp] theorem armMc_par (now : Word) (s : State) : (armMc now s).par = s.par := by rw [armMc_frame]
@[simp] theorem armMc_port (now : Word) (s : State) : (armMc now s).port = s.port := by rw [armMc_frame]
@[simp] theorem armMc_status (now : Word) (s : State) : (armMc now s).status = s.status := by rw [armMc_frame]
@[simp] theorem armMc_answer (now : Word) (s : State) : (armMc now s).answer = s.answer := by rw [armMc_frame]
@[simp] theorem armMc_fd (now : Word) (s : State) : (armMc now s).fd = s.fd := by rw [armMc_frame]
@[simp] theorem armMc_txLen (now : Word) (s : State) : (armMc now s).txLen = s.txLen := by rw [armMc_frame]
@[simp] theorem armMc_rxLen (now : Word) (s : State) : (armMc now s).rxLen = s.rxLen := by rw [armMc_frame]
@[simp] theorem armMc_mem (now : Word) (s : State) : (armMc now s).mem = s.mem := by rw [armMc_frame]
@[simp] theorem armMc_evt (now : Word) (s : State) : (armMc now s).evt = s.evt := by rw [armMc_frame]
@[simp] theorem armMc_b (now : Word) (s : State) : (armMc now s).b = s.b := by rw [armMc_frame]
@[simp] theorem armMc_p (now : Word) (s : State) : (armMc now s).p = s.p := by rw [armMc_frame]
@[simp] theorem armMc_se (now : Word) (s : State) : (armMc now s).se = s.se := by rw [armMc_frame]
@[simp] theorem armMc_trace (now : Word) (s : State) : (armMc now s).trace = s.trace := by rw [armMc_frame]
@[simp] theorem armMc_path (now : Word) (s : State) : (armMc now s).path = s.path := by rw [armMc_frame]
@[simp] theorem armMc_script (now : Word) (s : State) : (armMc now s).script = s.script := by rw [armMc_frame]

/-- The entries after `ArmMc`: past slots skipped, in class B. -/
theorem armMc_mc (now : Word) (s : State) :
    (armMc now s).mc = if s.r.deviceClass = .b then s.mc.map (skipEntry s now) else s.mc := by
  unfold armMc
  by_cases h : s.r.deviceClass = .b
  · rw [if_neg (not_not.2 h), if_pos h]
    dsimp only
    split <;> rfl
  · rw [if_pos h, if_neg h]

/-! ### The offset of a sequence (45_classb_beacon.md R226) -/

/-- For a period of the table the offset is `PingRand` modulo the period, whichever function the parameters choose. -/
theorem pingOffset_toNat (par : Params) (t addr : Word) (period : BitVec 13) (h1 : 1 ≤ period.toNat)
    (h2 : period.toNat ≤ 4096) :
    (pingOffset par t addr period).toNat = (pingRand par t addr).toNat % period.toNat := by
  have := Nat.mod_lt (pingRand par t addr).toNat h1
  rw [pingOffset, BitVec.toNat_ofNat, Nat.mod_eq_of_lt (by omega)]

theorem pingOffset_lt (par : Params) (t addr : Word) (period : BitVec 13) (h1 : 1 ≤ period.toNat)
    (h2 : period.toNat ≤ 4096) : (pingOffset par t addr period).toNat < period.toNat := by
  rw [pingOffset_toNat par t addr period h1 h2]
  exact Nat.mod_lt _ h1

/-! ### The state of the tracker after its procedures -/

theorem lostBeacon_state (s : State) :
    (lostBeacon s).b.state = .lost ∧ (lostBeacon s).b.run = false ∧ (lostBeacon s).r.rxSlot = .none
    ∧ (lostBeacon s).path = s.path ++ [.lost] := ⟨rfl, rfl, rfl, rfl⟩

/-- A halt leaves the beacon registers as at reset, but for the symbol timeout. -/
@[simp] theorem haltTracker_b (s : State) : (haltTracker s).b = { Beacon.reset s.par with symto := s.b.symto } := by
  unfold haltTracker
  dsimp only
  split <;> rfl

theorem haltTracker_state (s : State) :
    (haltTracker s).b.state = .acquisition ∧ (haltTracker s).b.run = false ∧ (haltTracker s).b.lastRxValid = false := by
  simp [Beacon.reset]

theorem enterIdle_state (now : Word) (s : State) :
    (enterIdle now s).b.state = .idle ∧ (enterIdle now s).r.rxSlot = .none
    ∧ (enterIdle now s).path = s.path ++ [.idle] := by
  simp [enterIdle, renewSlots]

end Sys2Proof.Machine
end

