-- ==== Sys2Proof/Tests/Slice0.lean ====
section
/-! SUPPORT. Tests. Every expected value is the spec's: 95_test_vectors.md (the vector is named) or a hand
calculation from the rule that is named. Each test is about one step on a small state. -/

namespace Sys2Proof.Tests

set_option Elab.async false

open Sys2Proof.Machine

/-! ### Frames of the vectors -/

/-- V100. -/
def joinRequestV100 : JoinRequest where
  mhdr := 0x00
  joinEui := 0x0102030405060708
  devEui := 0x1112131415161718
  devNonce := 0xABCD
  mic := 0x44332211

/-- V111. -/
def rejoinV111 : Rejoin02 where
  mhdr := 0xC0
  rejoinType := 0
  netId := 0x13
  devEui := 0x1112131415161718
  rjCount := 5
  mic := 0x04030201

/-- V112. -/
def rejoinV112 : Rejoin1 where
  mhdr := 0xC0
  joinEui := 0x0102030405060708
  devEui := 0x1112131415161718
  rjCount := 7
  mic := 0x04030201

/-- The channel list of V115. -/
def cflistV115 : List Byte :=
  [0x18, 0x4F, 0x84, 0xE8, 0x56, 0x84, 0xB8, 0x5E, 0x84, 0x88, 0x66, 0x84, 0x58, 0x6E, 0x84, 0x00]

/-- V116. -/
def joinAcceptV116 : JoinAccept where
  mhdr := 0x20
  joinNonce := 1
  netId := 0x13
  devAddr := 0x26011BDA
  dlSettings := 0x03
  rxDelay := 1
  cflist := some cflistV115
  mic := 0x78563412

/-- V124. -/
def dataV124 : DataFrame where
  mhdr := 0x60
  addr := 0x26011BDA
  fctrl := 0x02
  fcnt := 2
  fopts := [0xAA, 0xBB]
  fport := some 9
  payload := []
  mic := 0xDEADBEEF

/-! ### WellFormed: every check refuses a term it is there for -/

theorem test_wf_place_cmds : (Instr.framePlaceCmds (List.replicate 256 0) 51).wellFormed = false := by
  decide +kernel
theorem test_wf_rejoin_type : (Instr.frameRejoin02 { rejoinV111 with rejoinType := 1 }).wellFormed = false := by
  decide +kernel
theorem test_wf_cflist_length :
    (Instr.frameJoinAccept { joinAcceptV116 with cflist := some [0x18] }).wellFormed = false := by decide +kernel
theorem test_wf_fopts_length : (Instr.frameData { dataV124 with fctrl := 0x03 }).wellFormed = false := by
  decide +kernel
theorem test_wf_payload_without_port :
    (Instr.frameData { dataV124 with fport := none, payload := [1] }).wellFormed = false := by decide +kernel
theorem test_wf_frame_too_long :
    (Instr.frameData { dataV124 with payload := List.replicate 241 0 }).wellFormed = false := by decide +kernel
theorem test_wf_longest_frame :
    (Instr.frameData { dataV124 with payload := List.replicate 240 0 }).wellFormed = true := by decide +kernel

/-! ### Decoding -/

/-- The bytes at a port stand for an instruction, and are what the encoder writes for it there. -/
abbrev reads (p : Port) (bytes : List Byte) (i : Instr) : Prop :=
  decode p bytes = .ok i ∧ encode i = bytes ∧ portOf i = p

/-- The bytes as R61 and R75 write them. -/
theorem test_decode_system :
    reads .command [0x00] (.sysInit)
    ∧ reads .command [0x01, 0x42] (.mibGet 0x42)
    ∧ reads .command [0x02, 0x04, 0xDA, 0x1B, 0x01, 0x26] (.mibSet 0x04 0x26011BDA)
    ∧ reads .command [0x03, 0x01, 0xE0, 0xC4, 0x00, 0x00] (.sysSetClass 1 50400)
    ∧ reads .command [0x04] (.evtDrain)
    ∧ reads .command [0x05, 0x03, 0xFF, 0xFF, 0xFF, 0x01, 0x08, 0xE6, 0xD3, 0x33, 0x03, 0x02, 0x7C, 0xC4, 0x00,
          0x00] (.mcAdd 3 0x01FFFFFF 869525000 3 2 50300)
    ∧ reads .command [0x06, 0x02, 0x02, 0x01, 0x00, 0x00] (.mcRemove 2 258) := by
  decide +kernel

/-- The bytes as R61 and R75 write them. -/
theorem test_decode_frame_codec :
    reads .command [0x10, 0x17] (.serJoinreq 23)
    ∧ reads .command [0x11, 0x18] (.serRejoin 24)
    ∧ reads .command [0x12, 0x21] (.serJoinacc 33)
    ∧ reads .command [0x13, 0xFF] (.serData 255)
    ∧ reads .command [0x14] (.parseJoinreq)
    ∧ reads .command [0x15] (.parseRejoin)
    ∧ reads .command [0x16] (.parseJoinacc)
    ∧ reads .command [0x17] (.parseData)
    ∧ reads .command [0x18] (.frameClassify)
    ∧ reads .command [0x19] (.frameMatchAddr)
    ∧ reads .command [0x1A, 0x02, 0x02, 0x03, 0x33] (.framePlaceCmds [2, 3] 51)
    ∧ reads .command [0x1B, 0xE0, 0x01] (.portCheck 224 true) := by
  decide +kernel

/-- The bytes as R61 and R75 write them. -/
theorem test_decode_security :
    reads .command [0x20, 0x04, 0x03, 0x02, 0x01, 0x05, 0x02, 0xFF] (.secUplink 0x01020304 5 2 255)
    ∧ reads .command [0x21, 0x00, 0xDA, 0x1B, 0x01, 0x26, 0x01, 0x02, 0x00, 0x01, 0x00] (.secDownlink 0
          0x26011BDA 1 65538)
    ∧ reads .command [0x22, 0xFF] (.secJoinreq 255)
    ∧ reads .command [0x23, 0x13] (.secRejoin 19)
    ∧ reads .command [0x24, 0xFF, 0x01, 0x02, 0x03, 0x04, 0x05, 0x06, 0x07, 0x08, 0xCD, 0xAB] (.secJoinacc 0xFF
          0x0102030405060708 0xABCD)
    ∧ reads .command [0x25, 0x01, 0x02, 0x01, 0x00, 0x13, 0x00, 0x00, 0x01, 0x02, 0x03, 0x04, 0x05, 0x06, 0x07,
          0x08, 0xCD, 0xAB] (.secDeriveSession .v11 0x000102 0x000013 0x0102030405060708 0xABCD)
    ∧ reads .command [0x26, 0x00] (.secDeriveMc .root)
    ∧ reads .command [0x26, 0x01] (.secDeriveMc .ke)
    ∧ reads .command [0x26, 0x02, 0x02, 0x54, 0x54, 0xC9, 0x5B, 0x01, 0xE9, 0x9D, 0x98, 0xC4, 0x42, 0xE0, 0x76,
          0xC2, 0xE7, 0x4C, 0xD0] (.secDeriveMc (.key 2 0x5454C95B01E99D98C442E076C2E74CD0))
    ∧ reads .command [0x26, 0x03, 0x01, 0xFF, 0xFF, 0xFF, 0x01] (.secDeriveMc (.session 1 0x01FFFFFF))
    ∧ reads .command [0x27, 0x11, 0x12, 0x13, 0x14, 0x15, 0x16, 0x17, 0x18] (.secDeriveLifetime
          0x1112131415161718) := by
  decide +kernel

/-- The bytes as R61 and R75 write them. -/
theorem test_decode_counters :
    reads .command [0x30] (.fcntNextUp)
    ∧ reads .command [0x31, 0x05, 0x02, 0x01] (.fcntReconstruct 5 0x0102)
    ∧ reads .command [0x32, 0x01, 0x03] (.fcntReset 1 3) := by
  decide +kernel

/-- The bytes as R61 and R75 write them. -/
theorem test_decode_duty_cycle_adr :
    reads .command [0x40, 0x24, 0x04, 0x00, 0x00, 0x3C, 0x00, 0x00, 0x00, 0x07] (.dcTxUpdate 1060 60 7)
    ∧ reads .command [0x41, 0xE8, 0x03, 0x00, 0x00, 0x01] (.dcSchedule 1000 true)
    ∧ reads .command [0x42] (.adrNext)
    ∧ reads .command [0x43, 0x01] (.adrUplinkEnd true)
    ∧ reads .command [0x44, 0x03] (.ackStart 3)
    ∧ reads .command [0x45] (.ackTimeout)
    ∧ reads .command [0x46] (.ackReceived) := by
  decide +kernel

/-- The bytes as R61 and R75 write them. -/
theorem test_decode_rx_windows :
    reads .command [0x50, 0x10, 0x27, 0x00, 0x00, 0x00] (.rxwTxDone 10000 false)
    ∧ reads .command [0x51, 0x01] (.rxwOpen true)
    ∧ reads .command [0x52, 0x02] (.rxwRxDone 2) := by
  decide +kernel

/-- The bytes as R61 and R75 write them. -/
theorem test_decode_class_b :
    reads .command [0x60, 0xE8, 0x03, 0x00, 0x00] (.bcnAcquire 1000)
    ∧ reads .command [0x61, 0x18, 0xC4, 0x00, 0x00, 0x50, 0xC3, 0x00, 0x00, 0xE8, 0x03, 0x00, 0x00]
          (.bcnRxBeacon 50200 50000 1000)
    ∧ reads .command [0x62, 0xAA, 0xB7, 0x02, 0x00] (.bcnRxTimeout 178090)
    ∧ reads .command [0x63, 0x98, 0xAB, 0x02, 0x00] (.bcnTimer 175000)
    ∧ reads .command [0x64] (.bcnHalt)
    ∧ reads .command [0x65, 0x07, 0xF4, 0x01, 0x00, 0x00] (.pingSetInfo 7 500)
    ∧ reads .command [0x66, 0x1C, 0xCF, 0x00, 0x00] (.pingTimer 53020)
    ∧ reads .command [0x67, 0x4E, 0xD9, 0x00, 0x00] (.mcslotTimer 55630)
    ∧ reads .command [0x68, 0x02] (.slotRxDone 2) := by
  decide +kernel

/-- The bytes of log entry 6, and of R62 and R63. -/
theorem test_decode_events_and_header_bytes :
    reads .event [0x0B, 0x0C, 0x08, 0x00, 0x00] (.evtPost 11 2060)
    ∧ reads (.wire .mhdr) [0x76] (.mhdr 3 5 2)
    ∧ reads (.wire (.mtype .joinRequest)) [0x04] (.mtypeJoinRequest 1)
    ∧ reads (.wire (.mtype .joinAccept)) [0x20] (.mtypeJoinAccept 0)
    ∧ reads (.wire (.mtype .unconfirmedDataUp)) [0x40] (.mtypeUnconfirmedDataUp 0)
    ∧ reads (.wire (.mtype .unconfirmedDataDown)) [0x7C] (.mtypeUnconfirmedDataDown 7)
    ∧ reads (.wire (.mtype .confirmedDataUp)) [0x80] (.mtypeConfirmedDataUp 0)
    ∧ reads (.wire (.mtype .confirmedDataDown)) [0xA0] (.mtypeConfirmedDataDown 0)
    ∧ reads (.wire (.mtype .rejoinRequest)) [0xC0] (.mtypeRejoinRequest 0)
    ∧ reads (.wire (.mtype .proprietary)) [0xE8] (.mtypeProprietary 2) := by
  decide +kernel

/-- The bytes as R62 to R70 lay them out. -/
theorem test_decode_wire_frames :
    reads (.wire .joinRequest) [0x00, 0x08, 0x07, 0x06, 0x05, 0x04, 0x03, 0x02, 0x01, 0x18, 0x17, 0x16, 0x15,
          0x14, 0x13, 0x12, 0x11, 0xCD, 0xAB, 0x11, 0x22, 0x33, 0x44] (.frameJoinRequest joinRequestV100)
    ∧ reads (.wire .rejoin02) [0xC0, 0x00, 0x13, 0x00, 0x00, 0x18, 0x17, 0x16, 0x15, 0x14, 0x13, 0x12, 0x11,
          0x05, 0x00, 0x01, 0x02, 0x03, 0x04] (.frameRejoin02 rejoinV111)
    ∧ reads (.wire .rejoin1) [0xC0, 0x01, 0x08, 0x07, 0x06, 0x05, 0x04, 0x03, 0x02, 0x01, 0x18, 0x17, 0x16,
          0x15, 0x14, 0x13, 0x12, 0x11, 0x07, 0x00, 0x01, 0x02, 0x03, 0x04] (.frameRejoin1 rejoinV112)
    ∧ reads (.wire .joinAccept) [0x20, 0x01, 0x00, 0x00, 0x13, 0x00, 0x00, 0xDA, 0x1B, 0x01, 0x26, 0x03, 0x01,
          0x18, 0x4F, 0x84, 0xE8, 0x56, 0x84, 0xB8, 0x5E, 0x84, 0x88, 0x66, 0x84, 0x58, 0x6E, 0x84, 0x00, 0x12,
          0x34, 0x56, 0x78] (.frameJoinAccept joinAcceptV116)
    ∧ reads (.wire .dlsettings) [0xA3] (.dlsettings 1 2 3)
    ∧ reads (.wire .data) [0x60, 0xDA, 0x1B, 0x01, 0x26, 0x02, 0x02, 0x00, 0xAA, 0xBB, 0x09, 0xEF, 0xBE, 0xAD,
          0xDE] (.frameData dataV124)
    ∧ reads (.wire .fctrl) [0xA2] (.fctrl 1 0 1 0 2) := by
  decide +kernel

/-- V731, V732, V733: a missing operand, an operand out of range, no such code. -/
theorem test_decode_rejects :
    decode .command [0x50, 0x10, 0x27, 0, 0] = .error .missingOperand
    ∧ decode .command [0x50, 0x10, 0x27, 0, 0, 2] = .error .operandRange
    ∧ decode .command [0x07] = .error .illegalCommand
    ∧ decode .command [0xFF] = .error .illegalCommand
    ∧ decode .command [0x26, 0x04] = .error .operandRange
    ∧ decode .event [11, 0, 0, 0, 0, 0] = .error .notALayout
    ∧ decode (.wire .joinAccept) (List.replicate 29 0) = .error .notALayout := by decide +kernel

/-- Words of the table: a command code, and a header byte that is no command code. -/
theorem test_table_words :
    decodeTableWord 8 0x24 = some (.secJoinacc 0 0 0)
    ∧ decodeTableWord 8 0xE4 = some (.mtypeProprietary 1) := by decide +kernel

/-! ### A state to start from: reset with the test Region, which answers as 95_test_vectors.md says -/

/-- The parameters with the test Region's two defaults. -/
def testParams : Params := { Params.default with regionDefaultDatarate := 5, regionDefaultTxPower := 0 }

/-- Reset with the test Region; no call of the Secure Element fails. -/
def rt : State :=
  { State.reset with
    par := testParams, r := .reset testParams, b := .reset testParams, p := .reset testParams
    script := { seFail := List.replicate 6 false, validate := [true], nextChannel := [some (0, 0)],
                adrNext := [(4, 1, true)], lowerDr := [4], window := [(0, 100), (0, 100)], rxConfig := [true] } }

/-- What a command leaves, looked at through `f`; nothing when it stops. -/
def after {α : Type} (i : Instr) (s : State) (f : State → α) : Option α :=
  match exec i s with
  | .next t => some (f t)
  | .fault _ => none
  | .refused _ => none

/-- The keys of 95_test_vectors.md. -/
def k1 : Key := 0x2B7E151628AED2A6ABF7158809CF4F3C
def k2 : Key := 0x000102030405060708090A0B0C0D0E0F
def k3 : Key := 0x101112131415161718191A1B1C1D1E1F
def k4 : Key := 0x202122232425262728292A2B2C2D2E2F

/-- Key set `S10` and `S11`, and the root keys. -/
def s10 : KeyStore :=
  { KeyStore.reset with fNwkSIntKey := some k1, sNwkSIntKey := some k1, nwkSEncKey := some k1, appSKey := some k2 }
def s11 : KeyStore :=
  { KeyStore.reset with fNwkSIntKey := some k1, sNwkSIntKey := some k3, nwkSEncKey := some k4, appSKey := some k2 }
def roots : KeyStore := { KeyStore.reset with nwkKey := some k1, appKey := some k2 }

/-- A buffer filled from index 0. -/
def fill (s : State) (b : Buf) (bytes : List Byte) : State := s.write b 0 bytes

/-- `RXBUF` and `RX_LEN`. -/
def received (s : State) (bytes : List Byte) : State :=
  { fill s .rx bytes with rxLen := BitVec.ofNat 8 bytes.length }

/-! ### Primitives -/

theorem test_aes_V200 : aes128 k2 (beBytes 16 0x00112233445566778899AABBCCDDEEFF)
    = beBytes 16 0x69C4E0D86A7B0430D8CDB78070B4C55A := by decide +kernel
theorem test_cmac_V201 : aesCmac k1 [] = beBytes 16 0xBB1D6929E95937287FA37D129B756746 := by decide +kernel
theorem test_cmac_V202 : aesCmac k1 (beBytes 16 0x6BC1BEE22E409F96E93D7E117393172A)
    = beBytes 16 0x070A16B46B4D4144F79BDD9DD04A287C := by decide +kernel
/-- R121: another Secure Element computes what it computes, under the key in the slot; an empty slot still fails. -/
theorem test_other_secure_element :
    let s := { rt with se := roots, par := { testParams with seContent := .other } }
    (seEcb [1] .nwkKey s).1 = some (beBytes 16 (Config.seEcb k1 [1]).toNat)
    ∧ (seCmac (some [2]) [1] .appKey s).1 = some (Config.seCmac k2 (some [2]) [1])
    ∧ (seDeriveStore [1] .nwkKey .jSIntKey s).2.se.jSIntKey = some (Config.seDerive k1 [1])
    ∧ (seEcb [1] .jSIntKey s).1 = none := ⟨rfl, rfl, rfl, rfl⟩

theorem test_ping_rand_V601_V603 :
    pingRand .default 1000 0x26011BDA = 26846 ∧ pingRand .default 1000 0x01FFFFFF = 28661 := by decide +kernel

/-! ### Frame codec -/

/-- The descriptor of V100. -/
def fdV100 : FrameDesc := FrameDesc.reset.setJoinRequest joinRequestV100

/-- V100, V101. -/
theorem test_ser_joinreq :
    after (.serJoinreq 255) { rt with fd := fdV100 } (fun t => (t.status, t.txLen, t.read .tx 0 23))
      = some (.ok, 23, some [0x00, 0x08, 0x07, 0x06, 0x05, 0x04, 0x03, 0x02, 0x01, 0x18, 0x17, 0x16, 0x15, 0x14,
          0x13, 0x12, 0x11, 0xCD, 0xAB, 0x11, 0x22, 0x33, 0x44])
    ∧ after (.serJoinreq 22) { rt with fd := fdV100 } (fun t => (t.status, t.txLen)) = some (.errBufSize, 0) := by
  decide +kernel

/-- V111, V113. -/
theorem test_ser_rejoin :
    after (.serRejoin 255) { rt with fd := FrameDesc.reset.setRejoin02 rejoinV111 }
        (fun t => (t.status, t.txLen, t.read .tx 0 19))
      = some (.ok, 19, some [0xC0, 0x00, 0x13, 0x00, 0x00, 0x18, 0x17, 0x16, 0x15, 0x14, 0x13, 0x12, 0x11, 0x05,
          0x00, 0x01, 0x02, 0x03, 0x04])
    ∧ after (.serRejoin 255) { rt with fd := { FrameDesc.reset with rejoinType := 3 } } (·.status)
      = some .errParam := by decide +kernel

/-- V115, V116. -/
theorem test_ser_joinacc :
    after (.serJoinacc 33) (rt.setJoinAccept joinAcceptV116) (fun t => (t.status, t.txLen, t.read .tx 11 6))
      = some (.ok, 33, some [0x03, 0x01, 0x18, 0x4F, 0x84, 0xE8])
    ∧ after (.serJoinacc 32) (rt.setJoinAccept joinAcceptV116) (·.status) = some .errBufSize := by decide +kernel

/-- The descriptor of V104. -/
def fdV104 : FrameDesc :=
  { FrameDesc.reset with mhdr := 0x40, devAddr := 0x26011BDA, fcnt := 1, fportPresent := true, fport := 1,
                         pldLen := 3, mic := 0xDEADBEEF }

/-- The state of V104: the descriptor and `PLD`. -/
def stV104 : State := fill { rt with fd := fdV104 } .pld [0xAA, 0xBB, 0xCC]

/-- V104, V105. -/
theorem test_ser_data :
    after (.serData 255) stV104 (fun t => (t.status, t.txLen, t.read .tx 0 16))
      = some (.ok, 16, some [0x40, 0xDA, 0x1B, 0x01, 0x26, 0x00, 0x01, 0x00, 0x01, 0xAA, 0xBB, 0xCC, 0xEF, 0xBE,
          0xAD, 0xDE])
    ∧ after (.serData 15) stV104 (fun t => (t.status, t.txLen)) = some (.errBufSize, 0) := by decide +kernel

/-- A payload byte nothing has written: the HOST's fault of R53. -/
theorem test_ser_data_unwritten : after (.serData 255) { rt with fd := fdV104 } (·.status) = none := by
  decide +kernel

/-- R12, R31: the options and the channel list of a descriptor nothing has written are zeros, and both frames are laid
out; a 0 written into the options leaves the canonical form. -/
theorem test_ser_unwritten_arrays :
    after (.serData 255) { rt with fd := { fdV104 with fctrl := 2, fportPresent := false, pldLen := 0 } }
        (fun t => (t.status, t.txLen, t.read .tx 8 2)) = some (.ok, 14, some [0, 0])
    ∧ after (.serJoinacc 255) { rt with fd := { rt.fd with cflistPresent := true } }
        (fun t => (t.status, t.txLen, t.read .tx 13 16)) = some (.ok, 33, some (List.replicate 16 0))
    ∧ (fill rt .fopts [0, 7, 0]).mem.fopts = [(1, 7)] := by decide +kernel

/-- R53: a length beyond the end of `RXBUF` is a parse error. -/
theorem test_parse_beyond_capacity :
    let s := { received rt joinRequestV100.bytes with par := { testParams with phyMax := 22 } }
    after .parseJoinreq s (·.answer) = some [0x04] ∧ after .parseData s (·.answer) = some [0x04] := by decide +kernel

/-- V125, V126. -/
theorem test_parse_joinreq :
    after .parseJoinreq (received rt (joinRequestV100.bytes)) (fun t => (t.status, t.fd))
      = some (.ok, fdV100)
    ∧ after .parseJoinreq (received rt (List.replicate 22 0)) (·.status) = some .errParse := by decide +kernel

/-- V127, V128. -/
theorem test_parse_rejoin :
    after .parseRejoin (received rt (rejoinV112.bytes)) (fun t => (t.fd.rejoinType, t.fd.joinEui, t.fd.rjCount))
      = some (1, 0x0102030405060708, 7)
    ∧ after .parseRejoin (received rt ({ rejoinV111 with rejoinType := 1 } : Rejoin02).bytes) (·.status)
      = some .errParse := by decide +kernel

/-- V129, V12A. -/
theorem test_parse_joinacc :
    after .parseJoinacc (received rt joinAcceptV116.bytes)
        (fun t => (t.fd.cflistPresent, t.read .cflist 0 16, t.fd.mic, t.fd.devAddr))
      = some (true, some cflistV115, 0x78563412, 0x26011BDA)
    ∧ after .parseJoinacc (received rt (List.replicate 29 0)) (·.status) = some .errParse := by decide +kernel

/-- V124 (the frame is R69's layout of its fields), V123. -/
theorem test_parse_data :
    after .parseData (received rt dataV124.bytes)
        (fun t => (t.read .fopts 0 2, t.fd.fportPresent, t.fd.fport, t.fd.pldLen, t.fd.fcnt))
      = some (some [0xAA, 0xBB], true, 9, 0, 2)
    ∧ after .parseData (received rt [0x60, 0xDA, 0x1B, 0x01, 0x26, 0x03, 0x02, 0x00, 0xAA, 0xBB, 0xEF, 0xBE, 0xAD,
        0xDE]) (·.status) = some .errParse := by decide +kernel

/-- V136, V138. -/
theorem test_frame_classify :
    after .frameClassify (received rt [0xA0]) (·.answer) = some [0x00, 2, 1, 1]
    ∧ after .frameClassify (received rt [0x61]) (·.answer) = some [0x04] := by decide +kernel

/-- V151, V157, V155. -/
theorem test_frame_match_addr :
    let s := { rt with fd := fdV104, r := { rt.r with joined := true, devAddr := 0x26011BDA, lwVariant := .v11 } }
    let e := newEntry 0x26011BDA 0 0 0
    after .frameMatchAddr s (·.answer) = some [0x00, 0, 0xDA, 0x1B, 0x01, 0x26, 1]
    ∧ after .frameMatchAddr { s with mc := set4 s.mc 1 e } (·.answer) = some [0x00, 2, 0xDA, 0x1B, 0x01, 0x26, 3]
    ∧ after .frameMatchAddr { s with mc := set4 s.mc 1 e, fd := { fdV104 with fctrl := 0x20 } } (·.answer)
      = some [0x0B] := by decide +kernel

/-- V133, V131. -/
theorem test_frame_place_cmds :
    after (.framePlaceCmds (List.replicate 16 7) 51) stV104
        (fun t => (t.answer, t.fd.pldLen, t.fd.fport, t.read .pld 0 16))
      = some ([0x11, 2], 16, 0, some (List.replicate 16 7))
    ∧ after (.framePlaceCmds (List.replicate 15 7) 51) { stV104 with fd := { fdV104 with fctrl := 0x80 } }
        (fun t => (t.answer, t.fd.fctrl, t.fd.pldLen, t.read .fopts 0 15))
      = some ([0x00, 1], 0x8F, 3, some (List.replicate 15 7)) := by decide +kernel

/-- V141, V142, V144, V145. -/
theorem test_port_check :
    after (.portCheck 223 false) rt (·.answer) = some [0x00, 0]
    ∧ after (.portCheck 0 false) rt (·.answer) = some [0x02]
    ∧ after (.portCheck 224 true) rt (·.answer) = some [0x00, 1]
    ∧ after (.portCheck 225 true) rt (·.answer) = some [0x02] := by decide +kernel

/-! ### Security engine -/

/-- The start state of V210: joined, key set `S10`. -/
def stV210 : State :=
  { stV104 with r := { rt.r with joined := true, devAddr := 0x26011BDA }, se := s10 }

/-- V210. -/
theorem test_sec_uplink_v10 :
    after (.secUplink 1 5 0 255) stV210
        (fun t => (t.read .tx 0 16, t.txLen, t.r.fcntUp, t.fd.mic, t.read .pld 0 3))
      = some (some [0x40, 0xDA, 0x1B, 0x01, 0x26, 0x00, 0x01, 0x00, 0x01, 0x78, 0x48, 0x68, 0x95, 0x97, 0xC4, 0xD5],
          16, 1, 0xD5C49795, some [0xAA, 0xBB, 0xCC]) := by decide +kernel

/-- V212: the 1.1 uplink with options, acknowledgment, two keystream blocks and both halves of the MIC. -/
theorem test_sec_uplink_v11 :
    let fd := { fdV104 with mhdr := 0x80, fctrl := 0xA2, fport := 10, pldLen := 18 }
    let s := fill (fill { stV210 with fd := fd, se := s11 } .fopts [2, 3]) .pld
      (beBytes 16 0x00112233445566778899AABBCCDDEEFF ++ [0x00, 0x11])
    let s := { s with r := { s.r with lwVariant := .v11, fcntUp := 0x00010001, lastDownFcnt := 0x00010005 } }
    after (.secUplink 0x00010002 3 7 255) s (fun t => (t.read .tx 6 9, t.read .tx 25 8, t.txLen, t.fd.fcnt))
      = some (some [0x02, 0x00, 0xDE, 0xE2, 0x0A, 0x91, 0x79, 0xC5, 0x4A],
          some [0xDF, 0xFD, 0x65, 0xC4, 0x5C, 0xDB, 0x9A, 0x7A], 33, 2) := by decide +kernel

/-- The start state of V220 with its frame. -/
def stV220 : State :=
  received { stV210 with r := { stV210.r with nFcntDown := 65535, fcntValid := 1, adrAckCnt := 9 } }
    [0x60, 0xDA, 0x1B, 0x01, 0x26, 0x00, 0x02, 0x00, 0x01, 0x8B, 0x9B, 0x08, 0x09, 0xC0, 0x15, 0x98]

/-- V220. -/
theorem test_sec_downlink :
    after (.secDownlink 0 0x26011BDA 0 65538) stV220
        (fun t => (t.answer, t.read .pld 0 3, t.r.nFcntDown, t.r.lastDownFcnt, t.r.adrAckCnt, t.fd.mic))
      = some ([0x00, 0x02, 0x00, 0x01, 0x00, 0], some [1, 2, 3], 65538, 65538, 0, 0x9815C009) := by decide +kernel

/-- V221 and V223: a changed ciphertext bit, a replay. -/
theorem test_sec_downlink_refused :
    after (.secDownlink 0 0x26011BDA 0 65538) (fill stV220 .rx [0x60, 0xDA, 0x1B, 0x01, 0x26, 0x00, 0x02, 0x00, 0x01,
        0x8A]) (fun t => (t.status, t.r)) = some (.failMic, stV220.r)
    ∧ after (.secDownlink 0 0x26011BDA 0 65538) { stV220 with r := { stV220.r with nFcntDown := 65538 } } (·.status)
      = some .failFcntDuplicated := by decide +kernel

/-- V230. -/
theorem test_sec_joinreq :
    after (.secJoinreq 255) { rt with fd := fdV100, se := roots } (fun t => (t.fd.mic, t.txLen, t.read .tx 17 6))
      = some (0x8C4D8C75, 23, some [0xCD, 0xAB, 0x75, 0x8C, 0x4D, 0x8C]) := by decide +kernel

/-- V231, and its refusal when not joined. -/
theorem test_sec_rejoin :
    let s := { rt with fd := FrameDesc.reset.setRejoin02 rejoinV111, se := s11 }
    after (.secRejoin 255) { s with r := { s.r with joined := true } } (fun t => (t.fd.mic, t.txLen))
      = some (0x2E56360C, 19)
    ∧ after (.secRejoin 255) s (·.status) = some .errNotJoined := by decide +kernel

/-- V250. -/
theorem test_sec_joinacc :
    let s := received { rt with se := roots } [0x20, 0x93, 0x54, 0x5C, 0xAD, 0x37, 0x37, 0x30, 0x00, 0x1D, 0x42, 0x67,
      0x56, 0x70, 0x2B, 0xFB, 0x04]
    after (.secJoinacc 0xFF 0x0102030405060708 0xABCD) s
        (fun t => ((t.answer, t.r.joined, t.r.netId), (t.r.devAddr, t.read .rx 13 4, t.se.appSKey)))
      = some (([0x00, 0, 0], true, 0x13), (0x26011BDA, some [0x7F, 0xDF, 0xC5, 0x49],
          some 0x4C5F58588799B9B569556B508545B48F)) := by decide +kernel

/-- V251: the 1.1 join-accept with its channel list. -/
theorem test_sec_joinacc_v11 :
    let s := received { rt with se := { roots with jSIntKey := some 0x133AE4D2D90CF9990399E23E6413766A } } [0x20, 0x15,
      0xFB, 0xDF, 0xD9, 0x11, 0x00, 0x42, 0x40, 0xB7, 0x5D, 0x10, 0xDD, 0x7F, 0xAC, 0xFE, 0xF9, 0x30, 0x02, 0x2F, 0x09,
      0xFF, 0xC2, 0xDF, 0x91, 0x94, 0x9C, 0xF5, 0xB0, 0xD2, 0x5F, 0xF6, 0x32]
    let s := { s with r := { s.r with lwVariant := .v11 }, script := { s.script with seFail := List.replicate 7 false } }
    after (.secJoinacc 0xFF 0x0102030405060708 0xABCD) s
        (fun t => (t.answer, t.r.devAddr, t.trace.getLast?, t.se.nwkSEncKey))
      = some ([0x00, 1, 1], 0x26011BDB, some (.regionApplyCflist cflistV115),
          some 0x3A6AFF44593D52F5A530204DBCCDC80A) := by decide +kernel

/-- V242, and V247's partial writes when the third call fails. -/
theorem test_sec_derive_session :
    after (.secDeriveSession .v11 0x000102 0x13 0x0102030405060708 0xABCD) { rt with se := roots }
        (fun t => (t.se.fNwkSIntKey, t.se.appSKey, t.se.sNwkSIntKey, t.se.nwkSEncKey))
      = some (some 0x46FF99D627056C3B0081F228F58B99CE, some 0xA6A09368DDD6A0DAF2BB916973E4E757,
          some 0x9CDF4FE49F36EBDBE59AD2868FF18187, some 0x3A6AFF44593D52F5A530204DBCCDC80A)
    ∧ after (.secDeriveSession .v10 1 0x13 0x0102030405060708 0xABCD)
        { rt with se := roots, script := { rt.script with seFail := [false, false, true] } }
        (fun t => (t.status, t.se.sNwkSIntKey, t.se.nwkSEncKey, t.se.appSKey))
      = some (.errSeFailed, some 0x2AB4F79B683B8E3F50D03E1EAE5C6883, none, none) := by decide +kernel

/-- V243 and V246. -/
theorem test_sec_derive_mc :
    after (.secDeriveMc .root) { rt with se := roots, r := { rt.r with lwVariant := .v11 } } (·.se.mcRootKey)
      = some (some 0x430BFF9B049F19279455BD564133C73B)
    ∧ after (.secDeriveMc (.session 0 0x01FFFFFF))
        { rt with se := { roots with mcKey := set4 roots.mcKey 0 (some 0x404142434445464748494A4B4C4D4E4F) } }
        (fun t => (at4 t.se.mcAppSKey 0, at4 t.se.mcNwkSKey 0))
      = some (some 0xDBEE0EBE42D1BF1854013861C0CAB6CD, some 0xF3C63E3EEEF133119EFDF24B17216E44) := by decide +kernel

/-- V240. -/
theorem test_sec_derive_lifetime :
    after (.secDeriveLifetime 0x1112131415161718) { rt with se := roots } (fun t => (t.se.jSIntKey, t.se.jSEncKey))
      = some (some 0x133AE4D2D90CF9990399E23E6413766A, some 0x82F104D38A26FE5A7BCD3BAA9B0A6C37) := by decide +kernel

/-! ### Counters -/

/-- V311, V312. -/
theorem test_fcnt_next_up :
    after .fcntNextUp { rt with r := { rt.r with fcntUp := 0x0000FFFF } } (·.answer) = some [0x00, 0, 0, 1, 0]
    ∧ after .fcntNextUp { rt with r := { rt.r with fcntUp := 0xFFFFFFFF } } (·.answer) = some [0x07] := by
  decide +kernel

/-- V300, V303, V305, V306, V308, V309. -/
theorem test_fcnt_reconstruct :
    let s := fun n : Word => { rt with r := { rt.r with nFcntDown := n, fcntValid := 1 } }
    after (.fcntReconstruct 0 2) (s 65535) (·.answer) = some [0x00, 2, 0, 1, 0, 1]
    ∧ after (.fcntReconstruct 0 9) (s 10) (·.answer) = some [0x09]
    ∧ after (.fcntReconstruct 0 0xFFFF) (s 0xFFFFFFFE) (·.answer) = some [0x00, 0xFF, 0xFF, 0xFF, 0xFF, 0]
    ∧ after (.fcntReconstruct 0 0) (s 0xFFFFFFFF) (·.answer) = some [0x07]
    ∧ after (.fcntReconstruct 0 16484) (s 100) (·.status) = some .ok
    ∧ after (.fcntReconstruct 0 16485) (s 100) (·.status) = some .failMaxGap := by decide +kernel

/-- V313, V314. -/
theorem test_fcnt_reset :
    let r := { rt.r with fcntUp := 1, nFcntDown := 2, aFcntDown := 3, lastDownFcnt := 4, fcntValid := 0b111111,
                         mcFcntDown := #v[5, 6, 7, 8] }
    after (.fcntReset 0 0) { rt with r := r } (fun t => (t.r.fcntUp, t.r.lastDownFcnt, t.r.fcntValid, t.r.mcFcntDown))
      = some (0, 0, 0b111100, #v[5, 6, 7, 8])
    ∧ after (.fcntReset 1 2) { rt with r := r } (fun t => (t.r.nFcntDown, t.r.fcntValid, t.r.mcFcntDown))
      = some (2, 0b101111, #v[5, 6, 0, 8]) := by decide +kernel

/-! ### Duty cycle, ADR, retries -/

/-- V400, V407. -/
theorem test_dc_tx_update :
    after (.dcTxUpdate 5000 100 0) { rt with r := { rt.r with aggDcycle := 100 } }
        (fun t => (t.r.aggTimeOff, t.r.lastAggTx, t.r.aggTxValid, t.trace))
      = some (9900, 5000, true, [.regionTxDone 0 false 5000 100])
    ∧ after (.dcTxUpdate 0 65539 0) { rt with r := { rt.r with aggDcycle := 65535 } } (fun t => (t.status, t.trace))
      = some (.errParam, []) := by decide +kernel

/-- V401, V402. -/
theorem test_dc_schedule :
    let s := { rt with r := { rt.r with aggTimeOff := 9900, lastAggTx := 5000, aggTxValid := true } }
    after (.dcSchedule 6000 true) s (fun t => (t.answer, t.t.dcDelay))
      = some ([0x00, 1, 0, 5, 0xC4, 0x22, 0, 0], ⟨true, 14900⟩)
    ∧ after (.dcSchedule 6000 false) s (fun t => (t.answer, t.t.dcDelay))
      = some ([0x0F, 0xC4, 0x22, 0, 0], ⟨false, 0⟩) := by decide +kernel

/-- V431, V430. -/
theorem test_adr_next :
    after .adrNext { rt with r := { rt.r with adrOn := true } }
        (fun t => (t.answer, t.r.chDatarate, t.r.chTxPower, t.fd.fctrl))
      = some ([0x00, 4, 1, 1], 4, 1, 0xC0)
    ∧ after .adrNext { rt with fd := { rt.fd with fctrl := 0xCF } } (fun t => (t.answer, t.fd.fctrl, t.trace))
      = some ([0x00, 5, 0, 0], 0x0F, []) := by decide +kernel

/-- V432, V435. -/
theorem test_adr_uplink_end :
    after (.adrUplinkEnd false) { rt with r := { rt.r with adrOn := true, adrAckCnt := 7 } } (·.r.adrAckCnt) = some 8
    ∧ after (.adrUplinkEnd false) { rt with r := { rt.r with adrOn := true, adrAckCnt := 0xFFFFFFFF } }
        (·.r.adrAckCnt) = some 0xFFFFFFFF := by decide +kernel

/-- V410 to V412. -/
theorem test_ack_start :
    after (.ackStart 3) rt (fun t => (t.answer, t.r.ackRetries, t.r.ackRetryCnt)) = some ([0x00, 3], 3, 1)
    ∧ after (.ackStart 0) rt (·.r.ackRetries) = some 1
    ∧ after (.ackStart 200) rt (·.r.ackRetries) = some 8 := by decide +kernel

/-- V420: the second retry steps down, the third timeout gives up. -/
theorem test_ack_timeout :
    let s := fun n : BitVec 4 => { rt with r := { rt.r with ackRetries := 3, ackRetryCnt := n },
                                           t := rt.t.arm .rx2 9 }
    after .ackTimeout (s 1) (·.answer) = some [0x00, 0, 2, 0, 5]
    ∧ after .ackTimeout (s 2) (fun t => (t.answer, t.r.chDatarate)) = some ([0x00, 0, 3, 0, 4], 4)
    ∧ after .ackTimeout (s 3) (fun t => (t.answer, t.r.ackRetryCnt, t.t.rx2.armed, t.trace))
      = some ([0x12, 1, 3, 0, 5], 0, false, [.regionRestoreDefaults]) := by decide +kernel

/-- V424, V425. -/
theorem test_ack_received :
    after .ackReceived { rt with r := { rt.r with ackRetryCnt := 2 }, t := rt.t.arm .ackTo 7 }
        (fun t => (t.answer, t.t.ackTo.armed)) = some ([0x00, 2, 1, 5], false)
    ∧ after .ackReceived rt (·.status) = some .errParam := by decide +kernel

/-! ### Receive windows -/

/-- V502 (the clock wraps), V503. -/
theorem test_rxw_tx_done :
    after (.rxwTxDone 0xFFFFFF00 true) { rt with r := { rt.r with joined := true } }
        (fun t => (t.t.rx1, t.t.rx2, t.t.ackTo, t.r.rxSlot))
      = some (⟨true, 0x2E8⟩, ⟨true, 0x6D0⟩, ⟨true, 0xEA0⟩, .none)
    ∧ after (.rxwTxDone 10000 false) { rt with r := { rt.r with deviceClass := .c } }
        (fun t => (t.t.rx1.due, t.t.ackTo.armed, t.r.rxSlot, t.trace.drop 2))
      = some (15000, false, .classC, [.regionRxConfig .classC 5 none, .radioReceive 0]) := by decide +kernel

/-- V506, V507. -/
theorem test_rxw_open :
    after (.rxwOpen true) { rt with r := { rt.r with deviceClass := .c } } (fun t => (t.r.rxSlot, t.trace.getLast?))
      = some (.win2, some (.radioReceive 0))
    ∧ after (.rxwOpen false) { rt with script := { rt.script with rxConfig := [false] } }
        (fun t => (t.status, t.r.rxSlot, t.trace))
      = some (.errParam, .none,
          [.regionRxWindow .win1 5, .radioStandby, .regionRxConfig .win1 5 none]) := by decide +kernel

/-- V508, V50C. -/
theorem test_rxw_rx_done :
    after (.rxwRxDone 0) { rt.setSlot .win1 with t := rt.t.arm .rx2 9 }
        (fun t => (t.answer, t.t.rx2.armed, t.r.rxSlot, t.trace))
      = some ([0x00, 0], false, .none, [.radioSleep])
    ∧ after (.rxwRxDone 0) (rt.setSlot .pingSlot) (·.status) = some .errParam := by decide +kernel

/-! ### Class B -/

/-- The state of program P5 after its step 6, at the rules' registers. -/
def stP5 : State :=
  { rt with
    r := { rt.r with joined := true, devAddr := 0x26011BDA, deviceClass := .b }
    b := { rt.b with run := true, state := .idle, lastRxValid := true, lastRx := 50000, epoch := 50000, timeS := 1000 }
    p := { rt.p with assigned := true, offset := 30 }
    t := (rt.t.arm .beacon 175000).arm .ping 53020 }

/-- V620, V621. -/
theorem test_bcn_acquire :
    after (.bcnAcquire 1000) rt (fun t => (t.b.run, t.b.state, t.b.acqPending, t.r.rxSlot, t.trace))
      = some (true, .acquisition, true, .beacon,
          [.radioStandby, .regionRxConfig .beacon 0 none, .radioReceive 128000])
    ∧ after (.bcnAcquire 2000) stP5 (·.status) = some .errBusy := by decide +kernel

/-- P5 step 5. -/
theorem test_bcn_rx_beacon :
    let s := { rt with
      r := { rt.r with devAddr := 0x26011BDA, rxSlot := .beacon }, p := { rt.p with assigned := true }
      b := { rt.b with run := true, acqPending := true } }
    after (.bcnRxBeacon 50200 50000 1000) s
        (fun t => ((t.answer, t.path, t.b.epoch), (t.p.offset, t.t.beacon, t.r.rxSlot)))
      = some (([0x00, 1], [.locked, .idle], 50000), (30, ⟨true, 175000⟩, .none)) := by decide +kernel

/-- P5 step 13, and V627. -/
theorem test_bcn_rx_timeout :
    let s := { stP5 with
      b := { stP5.b with state := .rx }, r := { stP5.r with rxSlot := .beacon }, t := stP5.t.disarm .ping }
    after (.bcnRxTimeout 178090) s
        (fun t => ((t.answer, t.path, t.b.epoch, t.b.timeS), (t.b.symto, t.p.symto, t.t.ping)))
      = some (([0x00, 0], [.timeout, .beaconMissed, .reacquisition, .idle], 178000, 1128), (16, 16, ⟨true, 180570⟩))
    ∧ after (.bcnRxTimeout 7250001) s (fun t => (t.answer, t.b.state, t.b.run, t.r.deviceClass))
      = some ([0x00, 2], .lost, false, .a) := by decide +kernel

/-- P5 steps 11 and 12. -/
theorem test_bcn_timer :
    after (.bcnTimer 175000) stP5 (fun t => (t.b.state, t.t.ping.armed, t.t.beacon)) = some (.guard, false, ⟨true, 178000⟩)
    ∧ after (.bcnTimer 178000) { stP5 with b := { stP5.b with state := .guard } }
        (fun t => (t.b.state, t.r.rxSlot, t.trace.getLast?))
      = some (.rx, .beacon, some (.radioReceive 100)) := by decide +kernel

/-- R224, from the state of P5 with a ping slot open. -/
theorem test_bcn_halt :
    after .bcnHalt (stP5.setSlot .pingSlot)
        (fun t => ((t.b.run, t.b.state, t.r.deviceClass), (t.r.rxSlot, t.t.ping.armed, t.trace), t.b.epoch))
      = some ((false, .acquisition, .a), (.none, false, [.radioSleep]), 0) := by decide +kernel

/-- V611, V612; V610 with an offset above the new period (log entry 27). -/
theorem test_ping_set_info :
    after (.pingSetInfo 7 0) rt (fun t => (t.p.pingNb, t.p.pingPeriod, t.p.assigned)) = some (1, 4096, true)
    ∧ after (.pingSetInfo 3 0) rt (fun t => (t.p.pingNb, t.p.pingPeriod)) = some (16, 256)
    ∧ after (.pingSetInfo 0 0) { rt with p := { rt.p with offset := 4000 } } (fun t => (t.p.pingPeriod, t.p.offset))
      = some (32, 4000) := by decide +kernel

/-- P5 step 8, and V631. -/
theorem test_ping_timer :
    after (.pingTimer 53020) stP5 (fun t => (t.answer, t.p.nextN, t.r.rxSlot, t.t.ping))
      = some ([0x00, 0, 30, 0], 1, .pingSlot, ⟨true, 53980⟩)
    ∧ after (.pingTimer 53020) { stP5 with t := stP5.t.arm .mcslot 53020 } (fun t => (t.answer, t.r.rxSlot, t.trace))
      = some ([0x00, 1, 30, 0], .none, []) := by decide +kernel

/-- A multicast entry with the slot numbers of V640. -/
def entryV640 : McEntry := { newEntry 0x01FFFFFF 869525000 3 2 with offset := 117 }

/-- V632, V633. -/
theorem test_mcslot_timer :
    let s := { stP5 with mc := set4 stP5.mc 0 entryV640 }
    after (.mcslotTimer 55630) (s.setSlot .pingSlot)
        (fun t => (t.answer, t.r.rxSlot, t.t.mcslot, (t.trace.drop 2).head?))
      = some ([0x00, 0, 117, 0, 0], .mcSlot, ⟨true, 59470⟩, some (.regionRxConfig .mcSlot 0 (some (869525000, 3))))
    ∧ after (.mcslotTimer 55630) (s.setSlot .win2) (fun t => (t.answer, t.r.rxSlot, (at4 t.mc 0).nextN))
      = some ([0x00, 1, 117, 0, 0], .win2, 1) := by decide +kernel

/-- V635, V634. -/
theorem test_slot_rx_done :
    after (.slotRxDone 0) (rt.setSlot .mcSlot) (fun t => (t.answer, t.r.rxSlot, t.trace))
      = some ([0x00, 5], .none, [.radioSleep])
    ∧ after (.slotRxDone 2) rt (·.status) = some .errParam := by decide +kernel

/-! ### System and events -/

/-- V700. -/
theorem test_sys_init :
    after .sysInit { stP5 with evt := 0xFFFF }
        (fun t => ((t.evt, t.r.deviceClass, t.r.chDatarate), (t.b.run, t.t.ping.armed, t.trace)))
      = some ((0, .a, 5), (false, false,
          [.regionInitDefaults, .regionDefaultDatarate, .regionDefaultTxPower, .radioSleep])) := by decide +kernel

/-- V702, V708, V709. -/
theorem test_mib_get :
    after (.mibGet 0x04) stP5 (·.answer) = some [0x00, 0xDA, 0x1B, 0x01, 0x26]
    ∧ after (.mibGet 0x43) rt (·.answer) = some [0x02]
    ∧ after (.mibGet 0x41) { rt with status := .failMic } (fun t => (t.answer, t.status))
      = some ([0x00, 6, 0, 0, 0], .ok) := by decide +kernel

/-- V706, V705, V703. -/
theorem test_mib_set :
    after (.mibSet 0x21 65535) rt (fun t => (t.r.nFcntDown, t.r.fcntValid)) = some (65535, 1)
    ∧ after (.mibSet 0x18 65536) rt (·.status) = some .errParam
    ∧ after (.mibSet 0x01 2) rt (·.status) = some .errParam := by decide +kernel

/-- V640 (class B), V720, V723. -/
theorem test_sys_set_class :
    after (.sysSetClass 1 50400) { stP5 with
        r := { stP5.r with deviceClass := .a }, mc := set4 stP5.mc 0 entryV640 }
        (fun t => (t.r.deviceClass, t.r.mcslotOwner, t.t.mcslot, t.t.ping))
      = some (.b, 0, ⟨true, 55630⟩, ⟨true, 53020⟩)
    ∧ after (.sysSetClass 2 0) rt (fun t => (t.r.rxSlot, t.trace))
      = some (.classC, [.radioStandby, .regionRxConfig .classC 5 none, .radioReceive 0])
    ∧ after (.sysSetClass 2 0) { stP5 with r := { stP5.r with deviceClass := .a } } (·.status) = some .errBusy := by
  decide +kernel

/-- V710. -/
theorem test_evt_drain :
    after .evtDrain { rt with evt := 0x0802 } (fun t => (t.answer, t.evt)) = some ([0x00, 0x02, 0x08], 0) := by
  decide +kernel

/-- V712, and a post before the due time. -/
theorem test_evt_post :
    after (.evtPost 11 2060) { rt with t := rt.t.arm .rx1 2060 } (fun t => (t.evt, t.t.rx1))
      = some (0x0800, ⟨false, 2060⟩)
    ∧ after (.evtPost 11 2059) { rt with t := rt.t.arm .rx1 2060 } (fun t => (t.evt, t.t.rx1))
      = some (0, ⟨true, 2060⟩) := by decide +kernel

/-- V640, V641. -/
theorem test_mc_add :
    let s := { stP5 with r := { stP5.r with deviceClass := .a } }
    after (.mcAdd 0 0x01FFFFFF 869525000 3 2 50300) s
        (fun t => ((at4 t.mc 0).pingNb, (at4 t.mc 0).pingPeriod, (at4 t.mc 0).offset, t.t.mcslot.armed))
      = some (32, 128, 117, false)
    ∧ after (.mcAdd 0 1 2 3 4 5) { s with mc := set4 s.mc 0 entryV640 } (·.status) = some .errParam := by decide +kernel

/-- V642, and R257 on an entry in use. -/
theorem test_mc_remove :
    after (.mcRemove 1 0) rt (·.status) = some .errParam
    ∧ after (.mcRemove 0 0) { stP5 with mc := set4 stP5.mc 0 entryV640, t := stP5.t.arm .mcslot 55630 }
        (fun t => (at4 t.mc 0, t.t.mcslot)) = some (.reset, ⟨false, 55630⟩) := by decide +kernel

/-! ### Wire rows and the step -/

/-- R62, R63, R68, R70. -/
theorem test_wire_bytes :
    after (.mhdr 3 5 2) rt (·.fd.mhdr) = some 0x76
    ∧ after (.mtypeJoinRequest 1) rt (·.fd.mhdr) = some 0x04
    ∧ after (.mtypeJoinAccept 0) rt (·.fd.mhdr) = some 0x20
    ∧ after (.mtypeUnconfirmedDataUp 0) rt (·.fd.mhdr) = some 0x40
    ∧ after (.mtypeUnconfirmedDataDown 7) rt (·.fd.mhdr) = some 0x7C
    ∧ after (.mtypeConfirmedDataUp 0) rt (·.fd.mhdr) = some 0x80
    ∧ after (.mtypeConfirmedDataDown 0) rt (·.fd.mhdr) = some 0xA0
    ∧ after (.mtypeRejoinRequest 0) rt (·.fd.mhdr) = some 0xC0
    ∧ after (.mtypeProprietary 2) rt (·.fd.mhdr) = some 0xE8
    ∧ after (.dlsettings 1 2 3) rt (·.fd.dlSettings) = some 0xA3
    ∧ after (.fctrl 1 0 1 0 2) rt (·.fd.fctrl) = some 0xA2 := by decide +kernel

/-- R64 to R69: a received frame stands in `RXBUF` with its length. -/
theorem test_wire_frames :
    after (.frameJoinRequest joinRequestV100) rt (fun t => (t.rxLen, t.read .rx 17 2)) = some (23, some [0xCD, 0xAB])
    ∧ after (.frameRejoin02 rejoinV111) rt (fun t => (t.rxLen, t.read .rx 0 3)) = some (19, some [0xC0, 0, 0x13])
    ∧ after (.frameRejoin1 rejoinV112) rt (fun t => (t.rxLen, t.read .rx 0 3)) = some (24, some [0xC0, 1, 8])
    ∧ after (.frameJoinAccept joinAcceptV116) rt (fun t => (t.rxLen, t.read .rx 13 2)) = some (33, some [0x18, 0x4F])
    ∧ after (.frameData dataV124) rt (fun t => (t.rxLen, t.read .rx 8 3)) = some (15, some [0xAA, 0xBB, 9]) := by
  decide +kernel

/-- The step takes a command from its port, and answers one that is none (V733). -/
theorem test_step :
    (match step { rt with port := [.bytes .command [0x30]] } with
      | .next t => some (t.answer, t.port)
      | _ => none) = some ([0x00, 1, 0, 0, 0], [])
    ∧ (match step { rt with port := [.bytes .command [0x07]] } with
      | .next t => some (t.answer, t.port)
      | _ => none) = some ([0x13], []) := by decide +kernel

/-! ### Witnesses: for every statement with hypotheses, states and operands that meet them, clause by clause and at the
ends of each clause's range. `runs i s` says that `exec i s` answers a next state with `OK`. -/

/-- The command completes with `OK`. -/
def runs (i : Instr) (s : State) : Bool := after i s (·.status) == some .ok

/-- A step answers a next state. -/
def goesOn (s : State) : Bool :=
  match step s with
  | .next _ => true
  | _ => false

/-- Calls for which the Secure Element holds as many acceptances ready are accepted. -/
theorem accepts_of_ready (calls : List Call) (s : State) (n : Nat) (h : s.script.seFail = List.replicate n false)
    (hn : calls.length ≤ n) : SeAccepts calls s :=
  seAccepts_of_ready calls s n [] (by simpa using h) hn

/-- A state whose Secure Element refuses its next call. -/
def refusing (s : State) : State := { s with script := { s.script with seFail := [true] } }

/-- A refused first call: the sequence is not accepted. -/
theorem refuses (c : Call) (cs : List Call) (s : State) : ¬ SeAccepts (c :: cs) (refusing s) := by
  simp [SeAccepts, seCall, State.log, refusing]

/-- A port with one item. -/
def withPort (s : State) (p : PortItem) : State := { s with port := [p] }

theorem witness_StepRunsDecodedInstruction :
    rt.par.Ok ∧ decode .command [0x30] = .ok .fcntNextUp ∧ rt.port = []
    ∧ ¬ Params.Ok { testParams with maxFcntGap := 65536 } ∧ Params.Ok { testParams with maxFcntGap := 65535 }
    ∧ decodeTableWord 8 0x30 = some .fcntNextUp := by decide +kernel

theorem witness_IllegalCommandExactlyOutsideTable :
    (0x07 : Byte).toNat ∉ commandCodes ∧ (0x69 : Byte).toNat ∉ commandCodes ∧ (0xFF : Byte).toNat ∉ commandCodes
    ∧ (0x00 : Byte).toNat ∈ commandCodes ∧ (0x68 : Byte).toNat ∈ commandCodes
    ∧ goesOn (withPort rt (.bytes .command [0x00])) = true ∧ goesOn (withPort rt (.bytes .command [0x68, 0])) = true := by
  decide +kernel

theorem witness_TruncatedCommandIsErrNpe :
    (encode (.rxwTxDone 10000 true)).length = 6 ∧ (encode (.framePlaceCmds [2, 3] 51)).length = 5
    ∧ (Instr.framePlaceCmds [2, 3] 51).wellFormed = true ∧ portOf (.rxwTxDone 10000 true) = .command
    ∧ (encode (.rxwTxDone 10000 true)).take 1 = [0x50] ∧ rt.par.Ok
    ∧ ((5, 2) ∈ narrowOperands (.rxwTxDone 10000 true) ∧ 2 ≤ (2 : Byte).toNat ∧ 2 ≤ (255 : Byte).toNat
      ∧ (11, 8) ∈ narrowOperands (.mcAdd 0 0 0 0 0 0) ∧ 8 ≤ (8 : Byte).toNat) := by decide +kernel

theorem witness_DecodeOfEncode :
    (Instr.framePlaceCmds (List.replicate 255 0) 51).wellFormed = true ∧ (Instr.frameData dataV124).wellFormed = true
    ∧ (Instr.frameRejoin02 { rejoinV111 with rejoinType := 2 }).wellFormed = true := by decide +kernel

theorem witness_EncodeOfDecodedWire :
    decode (.wire .joinRequest) joinRequestV100.bytes = .ok (.frameJoinRequest joinRequestV100)
    ∧ decode (.wire .data) dataV124.bytes = .ok (.frameData dataV124) := by decide +kernel

theorem witness_SysInitValues : State.reset.par = .default ∧ runs .sysInit State.reset = true := by
  exact ⟨rfl, by decide +kernel⟩

theorem witness_StepKeepsCore : InvCore rt ∧ goesOn (withPort rt (.bytes .command [0x30])) = true := by
  decide +kernel

theorem witness_StepKeepsTracker : InvTracker stP5 ∧ goesOn (withPort stP5 (.bytes .command [0x65, 0, 0, 0, 0])) = true
    ∧ InvTracker (withPort stP5 (.bytes .command [0x65, 0, 0, 0, 0])) :=
  ⟨by decide +kernel, by decide +kernel, by decide +kernel⟩

/-- `stP5` with the multicast entry of V640, its slot armed. -/
def stMc : State := { stP5 with mc := set4 stP5.mc 0 entryV640, t := stP5.t.arm .mcslot 55630 }

theorem witness_StepKeepsSlots :
    InvSlots stMc ∧ InvTracker stMc ∧ goesOn (withPort stMc (.bytes .command [0x67, 0x4E, 0xD9, 0, 0])) = true :=
  ⟨by decide +kernel, by decide +kernel, by decide +kernel⟩

theorem witness_FailedCommandChangesNothing :
    (after .ackReceived rt (·.status.completed) = some false ∧ portOf .ackReceived = .command
      ∧ derivesKeys .ackReceived = false)
    ∧ after (.secDeriveLifetime 1) (refusing rt) (·.status.completed) = some false
    ∧ derivesKeys (.secDeriveLifetime 1) = true := by decide +kernel

theorem witness_OtherInstructionsIgnoreKeys :
    callsSe .fcntNextUp = false ∧ runs .fcntNextUp rt = true
    ∧ callsSe (.serData 255) = false ∧ exec (.serData 255) { rt with fd := fdV104 } = .fault .unwrittenByte := by
  refine ⟨rfl, by decide +kernel, rfl, rfl⟩

theorem witness_CommandsAlwaysAnswer :
    portOf .sysInit = .command ∧ portOf (.slotRxDone 3) = .command
    ∧ (({ rt with fd := fdV104 } : State).read .pld 0 3 = none ∧ fdV104.fportPresent = true
      ∧ 12 + fdV104.fctrl.toNat % 16 + 1 + fdV104.pldLen.toNat ≤ (16 : Byte).toNat) := by decide +kernel

theorem witness_SerializeJoinFrames :
    (rt.fd.rejoinType = 0 ∧ (FrameDesc.reset.setRejoin02 { rejoinV111 with rejoinType := 2 }).rejoinType = 2
      ∧ (FrameDesc.reset.setRejoin1 rejoinV112).rejoinType = 1)
    ∧ 2 < ({ rt.fd with rejoinType := 3 } : FrameDesc).rejoinType.toNat
    ∧ (rt.fd.cflistPresent = false ∧ (rt.setJoinAccept joinAcceptV116).fd.cflistPresent = true
      ∧ (rt.setJoinAccept joinAcceptV116).read .cflist 0 16 = some cflistV115)
    ∧ (rt.par.phyMax = 255 ∧ joinRequestV100.bytes.length = 23 ∧ rejoinV111.bytes.length = 19
      ∧ rejoinV112.bytes.length = 24 ∧ joinAcceptV116.bytes.length = 33) := by decide +kernel

theorem witness_SerializeDataFrame :
    (({ fdV104 with fportPresent := false } : FrameDesc).pldLen ≠ 0)
    ∧ (stV104.fd.fportPresent = true ∧ stV104.read .fopts 0 (stV104.fd.fctrl.toNat % 16) = some []
      ∧ stV104.read .pld 0 stV104.fd.pldLen.toNat = some [0xAA, 0xBB, 0xCC]) := by
  decide +kernel

theorem witness_ParseJoinFrames :
    (received rt joinRequestV100.bytes).read .rx 0 23 = some joinRequestV100.bytes
    ∧ ((received rt [0]).rxLen.toNat < 2 ∧ (received rt [0, 3]).byteOf .rx 1 = some 3
      ∧ (received rt [0, 0]).byteOf .rx 1 = some 0 ∧ (received rt [0, 0]).rxLen ≠ 19)
    ∧ ((received rt rejoinV111.bytes).rxLen = 19 ∧ (received rt rejoinV111.bytes).read .rx 0 19 = some rejoinV111.bytes
      ∧ byteAt rejoinV111.bytes 1 = 0)
    ∧ ((received rt rejoinV112.bytes).rxLen = 24 ∧ (received rt rejoinV112.bytes).read .rx 0 24 = some rejoinV112.bytes
      ∧ byteAt rejoinV112.bytes 1 = 1)
    ∧ (rt.rxLen ≠ 17 ∧ rt.rxLen ≠ 33 ∧ (received rt joinAcceptV116.bytes).rxLen = 33
      ∧ (received rt joinAcceptV116.bytes).read .rx 0 33 = some joinAcceptV116.bytes
      ∧ (received rt (joinAcceptV116.bytes.take 17)).rxLen = 17
      ∧ (received rt (joinAcceptV116.bytes.take 17)).read .rx 0 17 = some (joinAcceptV116.bytes.take 17))
    ∧ ((22 : Nat) < (received rt joinRequestV100.bytes).rxLen.toNat
      ∧ (received rt joinRequestV100.bytes).rxLen.toNat ≤ rt.par.phyMax) := by
  decide +kernel

theorem witness_ParseDataFrame :
    ((received rt (List.replicate 11 0)).rxLen.toNat < 12 ∧ 11 < (received rt (List.replicate 12 0)).rxLen.toNat)
    ∧ ((received rt [0x60, 0, 0, 0, 0, 1, 0, 0, 0, 0, 0, 0]).rxLen = 12
      ∧ (received rt [0x60, 0, 0, 0, 0, 1, 0, 0, 0, 0, 0, 0]).byteOf .rx 5 = some 1)
    ∧ ((received rt dataV124.bytes).read .rx 0 15 = some dataV124.bytes
      ∧ (received rt dataV124.bytes).rxLen = 15 ∧ 12 + (byteAt dataV124.bytes 5).toNat % 16 ≤ 15)
    ∧ ((received rt (List.replicate 12 0)).read .rx 0 12 = some (List.replicate 12 0)
      ∧ (byteAt (List.replicate 12 0) 5).toNat % 16 = 0) := by
  decide +kernel

theorem witness_SerializeThenParse :
    after (.serJoinreq 255) { rt with fd := fdV100 } (fun t => (t.status == .ok, (t.read .tx 0 t.txLen.toNat).isSome))
      = some (true, true)
    ∧ after (.serRejoin 19) { rt with fd := FrameDesc.reset.setRejoin02 rejoinV111 }
      (fun t => (t.status == .ok, (t.read .tx 0 t.txLen.toNat).isSome)) = some (true, true)
    ∧ after (.serJoinacc 33) (rt.setJoinAccept joinAcceptV116)
      (fun t => (t.status == .ok, (t.read .tx 0 t.txLen.toNat).isSome)) = some (true, true)
    ∧ after (.serData 16) stV104 (fun t => (t.status == .ok, (t.read .tx 0 t.txLen.toNat).isSome))
      = some (true, true) := by decide +kernel

theorem witness_ParseThenSerialize :
    runs .parseJoinreq (received rt joinRequestV100.bytes) = true
    ∧ runs .parseRejoin (received rt rejoinV112.bytes) = true
    ∧ runs .parseJoinacc (received rt joinAcceptV116.bytes) = true
    ∧ runs .parseData (received rt dataV124.bytes) = true
    ∧ (received rt dataV124.bytes).rxLen.toNat ≤ (255 : Byte).toNat ∧ (255 : Byte).toNat ≤ rt.par.phyMax := by
  decide +kernel

theorem witness_ClassifyAndPortCheck :
    rt.rxLen = 0 ∧ ({ testParams with phyMax := 0 } : Params).phyMax = 0 ∧ 1 ≤ rt.par.phyMax
    ∧ (received rt [0xA0]).rxLen ≠ 0 ∧ (received rt [0xA0]).byteOf .rx 0 = some 0xA0
    ∧ (received rt [0xFF]).byteOf .rx 0 = some 0xFF := by decide +kernel

theorem witness_FrameMatchAddr :
    let s := { rt with fd := { rt.fd with devAddr := 7 }, mc := set4 rt.mc 3 (newEntry 7 0 0 0) }
    ((at4 s.mc 3).valid = true ∧ (at4 s.mc 3).addr = s.fd.devAddr
      ∧ ∀ j : BitVec 2, j.toNat < (3 : BitVec 2).toNat →
        ¬ ((at4 s.mc j).valid = true ∧ (at4 s.mc j).addr = s.fd.devAddr))
    ∧ ∀ h : BitVec 2, ¬ ((at4 rt.mc h).valid = true ∧ (at4 rt.mc h).addr = rt.fd.devAddr) := by decide +kernel

theorem witness_FramePlaceCmds :
    ([] : List Byte).length ≤ rt.par.phyMax ∧ rt.par.phyMax ≤ 255 ∧ (List.replicate 15 (0 : Byte)).length ≤ 15
    ∧ 16 ≤ (List.replicate 16 (0 : Byte)).length ∧ (15 : Byte).toNat < (List.replicate 16 (0 : Byte)).length
    ∧ (List.replicate 16 (0 : Byte)).length ≤ (16 : Byte).toNat := by decide +kernel

theorem witness_PayloadCryptKeystream :
    (rt.se.get .zeroKey = some 0 ∧ SeAccepts (payloadCalls .zeroKey 0 1 2 (List.replicate 17 0)) rt)
    ∧ ¬ SeAccepts (payloadCalls .zeroKey 0 1 2 [5]) (refusing rt)
    ∧ rt.se.get .appSKey = none ∧ (List.replicate 255 (0 : Byte)).length ≤ 255 := by
  exact ⟨⟨rfl, accepts_of_ready _ rt 6 rfl (by decide +kernel)⟩, refuses _ _ _, rfl, by decide +kernel⟩

/-- The uplink of V210: its keys, its bytes, and a Secure Element that accepts. -/
theorem witness_SecUplinkSecures :
    (stV210.r.joined = true ∧ 1 ≤ (16 : Byte).toNat ∧ (255 : Byte).toNat ≤ stV210.par.phyMax
      ∧ stV210.r.fcntUp.toNat ≤ (0 : Word).toNat ∧ stV210.fd.fportPresent = true
      ∧ 12 + stV210.fd.fctrl.toNat % 16 + 1 + stV210.fd.pldLen.toNat = (16 : Byte).toNat)
    ∧ (stV210.read .pld 0 stV210.fd.pldLen.toNat = some [0xAA, 0xBB, 0xCC]
      ∧ stV210.read .fopts 0 (stV210.fd.fctrl.toNat % 16) = some [])
    ∧ (stV210.se.get .appSKey = some k2 ∧ stV210.se.get .nwkSEncKey = some k1 ∧ stV210.se.get .fNwkSIntKey = some k1
      ∧ stV210.se.get .sNwkSIntKey = some k1)
    ∧ (stV210.script.seFail = List.replicate 6 false ∧ runs (.secUplink 0 5 0 16) stV210 = true)
    ∧ after (.secUplink 0 5 0 16) (refusing stV210) (·.status) = some .errSeFailed := by decide +kernel

/-- Its calls: none on an empty slot; and each of the two can be the one that fails. -/
theorem witness_SecUplinkSecures_calls :
    let calls (m : List Byte) := payloadCalls .appSKey 0 1 0 [0xAA, 0xBB, 0xCC] ++ [.seCmac (some m) m .fNwkSIntKey]
    ∀ m, SeAccepts (calls m) stV210 ∧ ¬ UsesEmptySlot (calls m) stV210 ∧ SeFailsAt (calls m) 0 (refusing stV210)
      ∧ SeFailsAt (calls m) 1 { stV210 with se := { s10 with fNwkSIntKey := none } } := by
  intro calls m
  have two : calls m = [.seEcb (counterBlock 0 1 0 1) .appSKey, .seCmac (some m) m .fNwkSIntKey] := rfl
  rw [two]
  refine ⟨accepts_of_ready _ _ 6 rfl (by simp), ?_, seFailsAt_of_refused _ _ _ [] (by simp) rfl rfl,
    seFailsAt_of_empty _ _ _ (by simp) (accepts_of_ready _ _ 6 rfl (by simp)) rfl rfl⟩
  rw [usesEmptySlot_iff]
  exact Bool.not_eq_true _ ▸ rfl

theorem witness_SecUplinkRefusals :
    let j := { stV210 with r := { stV210.r with fcntUp := 5 } }
    rt.r.joined = false ∧ stV210.r.joined = true
    ∧ (40 : Nat) < (41 : Byte).toNat ∧ (4 : Word).toNat < j.r.fcntUp.toNat ∧ j.r.fcntUp.toNat ≤ (5 : Word).toNat
    ∧ (stV210.fd.pldLen ≠ 0 ∧ ({ stV210.fd with fportPresent := false } : FrameDesc).fportPresent = false)
    ∧ (15 : Byte).toNat < 12 + stV210.fd.fctrl.toNat % 16 + 1 + stV210.fd.pldLen.toNat := by decide +kernel

theorem witness_UplinkCounterLaw :
    runs (.secUplink 0 5 0 16) stV210 = true ∧ runs .evtDrain rt = true
    ∧ after (.secUplink 0 5 0 16) { stV210 with r := { stV210.r with fcntUp := 1 } } (·.status) = some .failFcntSmaller
    ∧ after (.secJoinacc 3 1 2) rt (·.status) = some .errParam := by decide +kernel

/-- The downlink of V220. -/
theorem witness_SecDownlinkAccepts :
    (stV220.r.joined = true ∧ stV220.read .rx 0 stV220.rxLen.toNat = some [0x60, 0xDA, 0x1B, 0x01, 0x26, 0x00, 0x02, 0x00,
      0x01, 0x8B, 0x9B, 0x08, 0x09, 0xC0, 0x15, 0x98])
    ∧ (65538 : Word).setWidth 16 = (2 : Half) ∧ (lastFcnt stV220.r 0).toNat < (65538 : Word).toNat
    ∧ streamValid stV220.r.fcntValid 0 = true
    ∧ (stV220.se.get .sNwkSIntKey = some k1 ∧ stV220.se.get .appSKey = some k2)
    ∧ tag32 testParams k1 (some (authBlock 0x01 0x00 0x00 0x26011BDA 65538 12 0)) [0x60, 0xDA, 0x1B, 0x01, 0x26,
      0x00, 0x02, 0x00, 0x01, 0x8B, 0x9B, 0x08] = 0x9815C009
    ∧ (stV220.script.seFail = List.replicate 6 false ∧ runs (.secDownlink 0 0x26011BDA 0 65538) stV220 = true) := by
  decide +kernel

theorem witness_SecDownlinkAccepts_multicast :
    (4 : BitVec 3).toNat ≤ 4 ∧ (5 : BitVec 3).toNat = (4 : BitVec 3).toNat + 1
    ∧ (at4 ({ rt with mc := set4 rt.mc 3 entryV640 } : State).mc (BitVec.ofNat 2 ((4 : BitVec 3).toNat - 1))).valid = true := by
  decide +kernel

theorem witness_SecDownlinkRefusals :
    (after (.secDownlink 5 0 0 0) rt (·.status) = some .errParam ∧ after (.secDownlink 0 0 2 0) rt (·.status) = some .errParam)
    ∧ after (.secDownlink 0 0 1 0) rt (·.status) = some .errNotJoined
    ∧ after (.secDownlink 0 0 1 0) (received stV220 (List.replicate 11 0)) (·.status) = some .errParse
    ∧ after (.secDownlink 0 0x26011BDA 0 65538) (fill stV220 .rx [0x60, 0xDA, 0x1B, 0x01, 0x26, 0x05]) (·.status)
      = some .errParse
    ∧ after (.secDownlink 0 1 0 65538) stV220 (·.status) = some .failAddress
    ∧ after (.secDownlink 0 0x26011BDA 0 65539) stV220 (·.status) = some .errParam
    ∧ after (.secDownlink 0 0x26011BDA 0 2) stV220 (·.status) = some .failFcntSmaller
    ∧ after (.secDownlink 0 0x26011BDA 1 2) stV220 (·.status) = some .failMic
    ∧ (after (.secDownlink 0 0x26011BDA 0 65538) (refusing stV220) (·.status) = some .errSeFailed
      ∧ after (.secDownlink 0 0x26011BDA 0 65538) { stV220 with se := { s10 with appSKey := none } } (·.status)
        = some .errSeFailed)
    ∧ after (.secDownlink 0 0x26011BDA 0 65538) { stV220 with par := { testParams with phyMax := 15 } } (·.status)
      = some .errParse := by decide +kernel

/-- The MIC's call can fail, and so can the first keystream call after a MIC that matches. -/
theorem witness_SecDownlinkRefusals_calls :
    let msg : List Byte := [0x60, 0xDA, 0x1B, 0x01, 0x26, 0x00, 0x02, 0x00, 0x01, 0x8B, 0x9B, 0x08]
    let calls := [Call.seCmac (some (authBlock 1 0 0 0x26011BDA 65538 12 0)) msg .sNwkSIntKey]
      ++ payloadCalls .appSKey 1 0x26011BDA 65538 [0x8B, 0x9B, 0x08]
    SeFailsAt calls 0 (refusing stV220) ∧ SeFailsAt calls 1 { stV220 with se := { s10 with appSKey := none } } :=
  ⟨seFailsAt_of_refused _ _ _ [] (by decide +kernel) rfl rfl,
    seFailsAt_of_empty _ _ _ (by decide +kernel) (accepts_of_ready _ _ 6 rfl (by decide +kernel)) (by decide +kernel)
      (by decide +kernel)⟩

theorem witness_DownlinkCounterLaw :
    (5 : BitVec 3).toNat ≤ 5 ∧ runs (.secDownlink 0 0x26011BDA 0 65538) stV220 = true ∧ runs .fcntNextUp rt = true := by
  decide +kernel

theorem witness_AdrCounterReturnsToZero :
    runs (.secDownlink 0 0x26011BDA 0 65538) stV220 = true
    ∧ after .ackReceived rt (·.status.completed) = some false := by decide +kernel

theorem witness_SecRequestsSecure :
    (rt.par.phyMax = 255 ∧ ({ rt with se := roots } : State).se.get .nwkKey = some k1
      ∧ ({ rt with se := s11 } : State).se.get .sNwkSIntKey = some k3
      ∧ ({ rt with se := { s11 with jSIntKey := some k4 } } : State).se.get .jSIntKey = some k4)
    ∧ (∀ msg slot, SeAccepts [.seCmac none msg slot] { rt with se := roots })
    ∧ (runs (.secJoinreq 23) { rt with se := roots } = true ∧ (22 : Byte).toNat < 23 ∧ ¬ 1 ≤ (0 : Byte).toNat
      ∧ ¬ (255 : Byte).toNat ≤ 254)
    ∧ (2 < ({ rt.fd with rejoinType := 3 } : FrameDesc).rejoinType.toNat ∧ rt.r.joined = false)
    ∧ (∀ msg slot, SeFailsAt [.seCmac none msg slot] 0 (refusing rt))
    ∧ ∀ msg, SeFailsAt [.seCmac none msg .nwkKey] 0 rt := by
  refine ⟨by decide +kernel, fun _ _ => accepts_of_ready _ _ 6 rfl (by simp), by decide +kernel, by decide +kernel,
    fun _ _ => seFailsAt_of_refused _ _ _ [] (by simp) rfl rfl,
    fun _ => seFailsAt_of_empty _ _ _ (by simp) trivial rfl rfl⟩

theorem witness_DerivationsStoreKeys :
    (rt.script.seFail = List.replicate 6 false
      ∧ ∀ calls : List Call, calls.length ≤ 6 → SeAccepts calls rt)
    ∧ runs (.secDeriveSession .v11 1 2 3 4) { rt with se := roots } = true
    ∧ runs (.secDeriveSession .v10 1 2 3 4) { rt with se := roots } = true
    ∧ runs (.secDeriveMc .root) { rt with se := roots, r := { rt.r with lwVariant := .v11 } } = true
    ∧ runs (.secDeriveMc .root) { rt with se := { roots with genAppKey := some k3 } } = true
    ∧ runs (.secDeriveMc .ke) { rt with se := { roots with mcRootKey := some k3 } } = true
    ∧ runs (.secDeriveMc (.key 3 7)) { rt with se := { roots with mcKeKey := some k3 } } = true
    ∧ runs (.secDeriveMc (.session 3 7)) { rt with se := { roots with mcKey := set4 roots.mcKey 3 (some k3) } } = true
    ∧ runs (.secDeriveLifetime 9) { rt with se := roots } = true := by
  exact ⟨⟨rfl, fun c h => accepts_of_ready c rt 6 rfl h⟩, by decide +kernel⟩

theorem witness_DerivationFailureKeepsEarlierKeys :
    let s := fun n : Nat => { rt with
      se := { roots with mcKey := set4 roots.mcKey 3 (some k3) }
      script := { rt.script with seFail := List.replicate n false ++ [true] } }
    (s 3).se.nwkKey = some k1 ∧ (s 3).se.appKey = some k2
    ∧ SeFailsAt (sessionCalls .v10 1 2 3 4) 0 (s 0) ∧ SeFailsAt (sessionCalls .v11 1 2 3 4) 3 (s 3)
    ∧ SeFailsAt (sessionCalls .v11 1 2 3 4) 1 { s 3 with se := { roots with appKey := none } }
    ∧ (∀ blk, SeFailsAt [.seDeriveStore blk .appKey .mcRootKey] 0 (s 0)
      ∧ SeFailsAt [.seDeriveStore blk .mcRootKey .mcKeKey] 0 (s 3))
    ∧ (∀ x y, SeFailsAt [.seDeriveStore x (.mcKey 3) (.mcAppSKey 3), .seDeriveStore y (.mcKey 3) (.mcNwkSKey 3)] 1 (s 1))
    ∧ ∀ x y, SeFailsAt [.seDeriveStore x .nwkKey .jSIntKey, .seDeriveStore y .nwkKey .jSEncKey] 1 (s 1) :=
  ⟨rfl, rfl, seFailsAt_of_refused _ _ _ [] (by decide +kernel) rfl rfl,
    seFailsAt_of_refused _ _ _ [] (by decide +kernel) rfl rfl,
    seFailsAt_of_empty _ _ _ (by decide +kernel)
      (seAccepts_of_ready _ _ 3 [true] rfl (by decide +kernel)) rfl rfl,
    fun _ => ⟨seFailsAt_of_refused _ _ _ [] (by simp) rfl rfl, seFailsAt_of_empty _ _ _ (by simp) trivial rfl rfl⟩,
    fun _ _ => seFailsAt_of_refused _ _ _ [] (by simp) rfl rfl,
    fun _ _ => seFailsAt_of_refused _ _ _ [] (by simp) rfl rfl⟩

/-- The join-accept of V250. -/
def stV250 : State :=
  received { rt with se := roots } [0x20, 0x93, 0x54, 0x5C, 0xAD, 0x37, 0x37, 0x30, 0x00, 0x1D, 0x42, 0x67,
    0x56, 0x70, 0x2B, 0xFB, 0x04]

theorem witness_SecJoinaccAccepts :
    let b := [0x20, 0x93, 0x54, 0x5C, 0xAD, 0x37, 0x37, 0x30, 0x00, 0x1D, 0x42, 0x67, 0x56, 0x70, 0x2B, 0xFB, 0x04]
    let pl := acceptPlain testParams k1 b
    (acceptVariant .v10 pl = .v10 ∧ acceptSlot 0xFF = .nwkKey ∧ stV250.rxLen.toNat ≤ stV250.par.phyMax)
    ∧ (stV250.r.joined = false ∧ stV250.rxLen = 17 ∧ stV250.read .rx 0 17 = some b)
    ∧ (stV250.r.lwVariant = .v10 ∧ stV250.se.get .nwkKey = some k1 ∧ stV250.se.nwkKey = some k1)
    ∧ (tag32 testParams k1 none (acceptData .v10 0xFF 0x0102030405060708 0xABCD pl) = acceptMic pl ∧ stV250.script.seFail = List.replicate 6 false)
    ∧ runs (.secJoinacc 0xFF 0x0102030405060708 0xABCD) stV250 = true := by decide +kernel

theorem witness_SecJoinaccRefusals :
    ((3 : Byte) ≠ 0xFF ∧ 2 < (3 : Byte).toNat) ∧ stV210.r.joined = true
    ∧ (rt.r.joined = false ∧ rt.rxLen ≠ 17 ∧ rt.rxLen ≠ 33 ∧ (2 : Byte).toNat ≤ 2 ∧ stV250.rxLen = 17)
    ∧ after (.secJoinacc 0xFF 0 0) { stV250 with par := { testParams with phyMax := 16 } } (·.status) = some .errParse
    ∧ after (.secJoinacc 0xFF 0 0) (refusing stV250) (·.status) = some .errSeFailed
    ∧ after (.secJoinacc 2 0 0) stV250 (·.status) = some .errSeFailed
    ∧ after (.secJoinacc 0xFF 0 0) (fill stV250 .rx [0x21]) (fun t => (t.status, t.se == stV250.se))
      = some (.failMic, true) := by decide +kernel

/-- The calls before the MIC is compared: each can fail, and in the state of V250 none does. -/
theorem witness_SecJoinaccRefusals_calls (x y : List Byte) :
    let calls := [Call.seEcb x .nwkKey, .seCmac none y .nwkKey]
    SeFailsAt calls 0 (refusing stV250)
    ∧ SeFailsAt calls 1 { stV250 with script := { stV250.script with seFail := [false, true] } }
    ∧ SeAccepts calls stV250 ∧ ¬ UsesEmptySlot calls stV250 :=
  ⟨seFailsAt_of_refused _ _ _ [] (by simp) rfl rfl, seFailsAt_of_refused _ _ _ [] (by simp) rfl rfl,
    accepts_of_ready _ _ 6 rfl (by simp), by rw [usesEmptySlot_iff]; exact Bool.not_eq_true _ ▸ rfl⟩

theorem witness_CounterReconstruct :
    let s := { rt with r := { rt.r with fcntValid := 1 }, mc := set4 rt.mc 3 entryV640 }
    (¬ (6 : BitVec 3).toNat ≤ 5 ∧ (at4 rt.mc (BitVec.ofNat 2 ((2 : BitVec 3).toNat - 2))).valid = false)
    ∧ ((at4 s.mc (BitVec.ofNat 2 ((5 : BitVec 3).toNat - 2))).valid = true ∧ streamValid s.r.fcntValid 5 = false)
    ∧ streamValid s.r.fcntValid 0 = true := by decide +kernel

theorem witness_ReconstructedCounterIsUnique :
    let s := { rt with r := { rt.r with nFcntDown := 65535, fcntValid := 1 } }
    s.par.maxFcntGap < 65536 ∧ streamValid s.r.fcntValid 0 = true
    ∧ after (.fcntReconstruct 0 2) s (·.answer) = some (0x00 :: (le32 65538 ++ [1])) := by decide +kernel

theorem witness_DutyCycleCommands :
    (regionNextChannel 0 5 false 0 { rt with script := { rt.script with nextChannel := [none] } }).1 = none
    ∧ (regionNextChannel 0 5 false 0 rt).1 = some (0, 0) := by decide +kernel

theorem witness_DutyCycleLaw :
    let s := { rt with r := { rt.r with aggDcycle := 100 } }
    let u := { rt with r := { rt.r with aggTimeOff := 9900, lastAggTx := 5000, aggTxValid := true } }
    1 ≤ s.r.aggDcycle.toNat
    ∧ after (.dcTxUpdate 5000 100 0) s (fun t => (t.status == .ok, t.r.aggTimeOff, t.r.lastAggTx, t.r.aggTxValid))
      = some (true, u.r.aggTimeOff, u.r.lastAggTx, u.r.aggTxValid)
    ∧ after (.dcSchedule 14900 true) u (·.answer) = some [0x00, 0x00, 0, 5, 0, 0, 0, 0] := by decide +kernel

theorem witness_AdrCommands :
    rt.r.adrOn = false
    ∧ (regionAdrNext rt.r.adrAckCnt rt.r.chDatarate rt.r.chTxPower
        { rt with r := { rt.r with adrOn := true } }).1 = (4, 1, true) := by decide +kernel

theorem witness_AckCommands :
    rt.r.ackRetryCnt = 0
    ∧ (({ rt.r with ackRetryCnt := 1 } : Regs).ackRetryCnt ≠ 0 ∧ rt.r.ackRetries.toNat ≤ (1 : BitVec 4).toNat)
    ∧ (({ rt.r with ackRetryCnt := 7, ackRetries := 8 } : Regs).ackRetryCnt.toNat
        < ({ rt.r with ackRetryCnt := 7, ackRetries := 8 } : Regs).ackRetries.toNat) := by decide +kernel

theorem witness_RxWindowsOpenAndClose :
    (regionRxConfig .win1 5 none { rt with script := { rt.script with rxConfig := [false] } }).1 = false
    ∧ (regionRxConfig .win1 5 none rt).1 = true
    ∧ (rt.r.rxSlot ≠ .win1 ∧ rt.r.rxSlot ≠ .win2 ∧ rt.r.rxSlot ≠ .classC)
    ∧ (rt.setSlot .win1).r.rxSlot = .win1 ∧ (rt.setSlot .classC).r.rxSlot = .classC := by decide +kernel

theorem witness_RxSlotWriters :
    after (.rxwOpen false) rt (·.r.rxSlot) = some .win1 ∧ rt.r.rxSlot = .none
    ∧ after (.sysSetClass 2 0) rt (·.r.rxSlot) = some .classC
    ∧ after (.slotRxDone 0) (rt.setSlot .mcSlot) (·.r.rxSlot) = some .none := by decide +kernel

theorem witness_BeaconStartAndStop :
    stP5.b.run = true ∧ rt.b.run = false ∧ rt.r.deviceClass ≠ .c
    ∧ ({ rt.r with deviceClass := .c } : Regs).deviceClass = .c := by decide +kernel

/-- A beacon window open, with the last beacon at 50000. -/
def stBeacon : State :=
  { stP5 with b := { stP5.b with state := .rx }, r := { stP5.r with rxSlot := .beacon }, t := stP5.t.disarm .ping }

theorem witness_BeaconEvents :
    ¬ (rt.b.run = true)
    ∧ (stBeacon.b.run = true ∧ stBeacon.r.rxSlot = .beacon ∧ stBeacon.b.state = .rx)
    ∧ (stBeacon.par.maxBeaconLess < ((7250001 : Word) - stBeacon.b.lastRx).toNat
      ∧ ¬ stBeacon.par.maxBeaconLess < ((7250000 : Word) - stBeacon.b.lastRx).toNat ∧ stBeacon.b.lastRxValid = true)
    ∧ (stBeacon.b.state ≠ .idle ∧ stBeacon.b.state ≠ .guard)
    ∧ (stP5.b.run = true ∧ stP5.b.state = .idle)
    ∧ (({ stP5.b with state := .guard } : Beacon).run = true) := by decide +kernel

theorem witness_EnterIdleProcedure :
    1 ≤ (1 : BitVec 13).toNat ∧ (4096 : BitVec 13).toNat ≤ 4096 ∧ rt.par.pingRand = .aes
    ∧ ({ testParams with pingRand := .other } : Params).pingRand = .other := by decide +kernel

theorem witness_ArmPingProcedure :
    rt.r.deviceClass ≠ .b
    ∧ (stP5.r.deviceClass = .b ∧ stP5.p.assigned = true ∧ stP5.p.nextN.toNat ≤ stP5.p.pingNb.toNat)
    ∧ ({ stP5.p with nextN := 128 } : Ping).nextN.toNat ≤ stP5.p.pingNb.toNat := by decide +kernel

theorem witness_ArmMcProcedure :
    rt.r.deviceClass ≠ .b
    ∧ (stMc.r.deviceClass = .b ∧ ∀ h, (at4 stMc.mc h).nextN.toNat ≤ (at4 stMc.mc h).pingNb.toNat)
    ∧ ((at4 stMc.mc 0).valid = true ∧ (at4 stMc.mc 0).nextN.toNat < (at4 stMc.mc 0).pingNb.toNat)
    ∧ (∀ h : BitVec 2, (at4 stP5.mc h).valid = false) := by decide +kernel

theorem witness_BeaconOrder : runs .bcnHalt stP5 = true ∧ Instr.bcnHalt ≠ .sysInit ∧ stP5.b.state = .idle := by
  decide +kernel

theorem witness_SlotCommands :
    (stP5.b.run = true ∧ stP5.b.state = .idle ∧ stP5.r.deviceClass = .b ∧ stP5.p.assigned = true
      ∧ stP5.p.nextN.toNat < stP5.p.pingNb.toNat ∧ stP5.r.rxSlot = .none ∧ stP5.t.mcslot.armed = false)
    ∧ (rt.b.run = false ∧ (stP5.setSlot .pingSlot).r.rxSlot ≠ .none
      ∧ (stP5.t.arm .mcslot 53020).mcslot.due = slotOpens stP5 30)
    ∧ (stMc.r.mcslotOwner = 0 ∧ (at4 stMc.mc 0).valid = true ∧ (at4 stMc.mc 0).nextN.toNat < (at4 stMc.mc 0).pingNb.toNat
      ∧ stMc.r.rxSlot = .none ∧ (stMc.setSlot .beacon).r.rxSlot = .beacon) := by decide +kernel

theorem witness_MulticastPriority :
    runs (.pingTimer 53020) (stP5.setSlot .mcSlot) = true
    ∧ (runs (.pingTimer 53020) { stP5 with t := stP5.t.arm .mcslot 53020 } = true
      ∧ (stP5.t.arm .mcslot 53020).mcslot.due
        = slotOpens stP5 (stP5.p.offset.toNat + stP5.p.nextN.toNat * stP5.p.pingPeriod.toNat))
    ∧ runs (.mcslotTimer 55630) (stMc.setSlot .pingSlot) = true
    ∧ (HandlesBatch 0x0600 [(9, [.mcslotTimer 55630]), (10, [.pingTimer 55630])] ∧ (0x0600 : BitVec 16) &&& 0x01FF = 0)
    ∧ (HandlesBatch 0x0E00 [(9, [.mcslotTimer 55630]), (10, []), (11, [.rxwOpen false])]
      ∧ (at4 stMc.mc stMc.r.mcslotOwner).nextN.toNat < (at4 stMc.mc stMc.r.mcslotOwner).pingNb.toNat
      ∧ stMc.r.rxSlot = .none ∧ stMc.b.state = .idle) := by
  simp only [HandlesBatch]
  decide +kernel

theorem witness_MibGet :
    (0x00, 0) ∈ registerValues rt ∧ (0xD8, 0) ∈ registerValues rt
    ∧ (0xD9 : Byte).toNat ∉ (registerValues rt).map Prod.fst
    ∧ (0x06 : Byte).toNat ∉ (registerValues rt).map Prod.fst := by decide +kernel

theorem witness_MibSet :
    (0x01 : Byte).toNat ∉ (settableRegisters rt.r 0).map Prod.fst
    ∧ (0x18, false, { rt.r with aggDcycle := 0 }) ∈ settableRegisters rt.r 0
    ∧ ((0x18, true, { rt.r with aggDcycle := 65535 }) ∈ settableRegisters rt.r 65535
      ∧ ∀ kind, (0x18, kind) ∉ regionKinds)
    ∧ ((0x14, true, { rt.r with chDatarate := 255 }) ∈ settableRegisters rt.r 255 ∧ (0x14, .datarate) ∈ regionKinds) := by
  exact ⟨by decide +kernel, by decide +kernel, ⟨by decide +kernel, by simp [regionKinds]⟩, by decide +kernel⟩

theorem witness_SetClass :
    (stP5.r.deviceClass = .b ∧ rt.r.deviceClass = .a ∧ ({ rt.r with deviceClass := .c } : Regs).deviceClass = .c)
    ∧ (rt.b.run = false ∧ stP5.b.run = true ∧ stP5.b.lastRxValid = true ∧ stP5.p.assigned = true) := by
  decide +kernel

theorem witness_EventFlags :
    (4 : BitVec 4).toNat ≤ 4 ∧ (15 : BitVec 4) ∈ ([5, 6, 7, 15] : List (BitVec 4))
    ∧ runs .fcntNextUp rt = true ∧ Instr.fcntNextUp ≠ .evtDrain ∧ Instr.fcntNextUp ≠ .sysInit := by decide +kernel

theorem witness_MulticastEntries :
    (at4 stMc.mc 0).valid = true ∧ (at4 rt.mc 3).valid = false ∧ stMc.b.run = true ∧ stMc.t.mcslot.armed = true := by
  decide +kernel

/-- A step at a port with one item, looked at through `f`. -/
def afterItem {α : Type} (p : PortItem) (s : State) (f : State → α) : Option α :=
  match step (withPort s p) with
  | .next t => some (f t)
  | _ => none

theorem witness_WireRowsAreHostStores :
    rt.par.Ok ∧ joinRequestV100.bytes.length ≤ rt.par.phyMax
    ∧ ({ testParams with phyMax := 22 } : Params).phyMax < joinRequestV100.bytes.length
    ∧ afterItem (.host (.mic 7)) rt (·.fd.mic) = some 7
    ∧ afterItem (.host (.buffer .fopts 14 [9])) rt (·.byteOf .fopts 14) = some (some 9)
    ∧ afterItem (.host (.buffer .fopts 15 [9])) rt (·.status) = none
    ∧ afterItem (.host (.key .zeroKey 5)) rt (·.se.get .zeroKey) = some (some 0)
    ∧ afterItem (.host (.key (.mcKey 3) 5)) rt (·.se.get (.mcKey 3)) = some (some 5) := by decide +kernel

end Sys2Proof.Tests
end

section
/-! The frame codec (40_frame_codec.md): what the parsers, `FRAME.CLASSIFY`, `PORT.CHECK`, `FRAME.MATCH_ADDR` and
`FRAME.PLACE_CMDS` answer, first as rules about each command, then as the obligations of the family. -/

namespace Sys2Proof.Proofs.FrameCodec

open Sys2Proof Sys2Proof.Machine

/-! ### Which function each command runs -/

theorem exec_parseJoinreq (s : State) : exec .parseJoinreq s = execParseJoinreq s := rfl

theorem exec_parseRejoin (s : State) : exec .parseRejoin s = execParseRejoin s := rfl

theorem exec_parseJoinacc (s : State) : exec .parseJoinacc s = execParseJoinacc s := rfl

theorem exec_parseData (s : State) : exec .parseData s = execParseData s := rfl

theorem exec_frameClassify (s : State) : exec .frameClassify s = execFrameClassify s := rfl

theorem exec_frameMatchAddr (s : State) : exec .frameMatchAddr s = execFrameMatchAddr s := rfl

theorem exec_portCheck (port : Byte) (compliance : Bool) (s : State) :
    exec (.portCheck port compliance) s = execPortCheck port compliance s := rfl

theorem exec_framePlaceCmds (cmds : List Byte) (maxPld : Byte) (s : State) :
    exec (.framePlaceCmds cmds maxPld) s = execFramePlaceCmds cmds maxPld s := rfl

/-! ### How a command ends, in the words of the claims -/

theorem raise_eq_failedWith (st : Status) (s : State) : raise st s = .next (failedWith st s) := rfl

theorem done_eq_answeredOk (res : List Byte) (s : State) : done res s = .next (answeredOk res s) := rfl

@[simp] theorem orFault_some {α : Type} (a : α) (k : α → Out) : orFault (some a) k = k a := rfl

theorem rxEnds_eq_true {s : State} {n : Nat} : s.rxEnds n = true ↔ s.par.phyMax < n := by
  simp [State.rxEnds]

/-! ### What a read gives -/

theorem length_of_read {s : State} {b : Buf} {off n : Nat} {bs : List Byte} (h : s.read b off n = some bs) :
    bs.length = n :=
  length_of_readCells h

/-- A byte of a string that was read from the start of a buffer. -/
theorem byteOf_of_read {s : State} {b : Buf} {n k : Nat} {bs : List Byte} (h : s.read b 0 n = some bs) (hk : k < n) :
    s.byteOf b k = some (byteAt bs k) := by
  have hget : bs[k]? = s.byteOf b k := by simpa [State.byteOf] using readCells_getElem? h hk
  have hlen : k < bs.length := by rw [length_of_read h]; exact hk
  rw [← hget, byteAt, List.getD_eq_getElem _ _ hlen, List.getElem?_eq_getElem hlen]

theorem slice_length {b : List Byte} {i n : Nat} (h : i + n ≤ b.length) : (slice b i n).length = n := by
  simp only [slice, List.length_take, List.length_drop]
  omega

/-! ### What a write from the start of a buffer stores -/

/-- A write stores its string in the one buffer it names. -/
theorem stores_write (s : State) (b : Buf) (bs : List Byte) : Stores s (s.write b 0 bs) (only b bs) := by
  intro c j
  by_cases hc : c = b
  · subst hc
    rw [only, if_pos rfl]
    split
    · next hj =>
      simpa [State.byteOf] using readCell_writeCells_same (unlisted c) (s.mem.buf c) 0 bs j hj
    · next hj => exact byteOf_write_other s c c 0 j bs (by omega)
  · rw [only, if_neg hc]
    exact byteOf_write_other s b c 0 j bs (.inl hc)

/-- Two strings stored one after the other, in different buffers. -/
theorem stores_write_write (s : State) {b c : Buf} (bs cs : List Byte) (hbc : b ≠ c) :
    Stores s ((s.write b 0 bs).write c 0 cs) fun d => if d = b then bs else only c cs d := by
  intro d j
  rw [stores_write (s.write b 0 bs) c cs d j, stores_write s b bs d j]
  by_cases hd : d = b
  · subst hd; simp [only, hbc]
  · simp [only, hd]

/-! ### `PARSE.JOINREQ` (R105) -/

/-- A length other than 23, or a buffer that ends before byte 23. -/
theorem parseJoinreq_refuses {s : State} (h : s.rxLen ≠ 23 ∨ s.par.phyMax < 23) :
    exec .parseJoinreq s = .next (failedWith .errParse s) := by
  rw [exec_parseJoinreq, execParseJoinreq, if_pos (h.imp_right rxEnds_eq_true.2), raise_eq_failedWith]

theorem parseJoinreq_accepts {s : State} {b : List Byte} (hlen : s.rxLen = 23) (hcap : 23 ≤ s.par.phyMax)
    (hread : s.read .rx 0 23 = some b) :
    exec .parseJoinreq s = .next { answeredOk [] s with fd := s.fd.setJoinRequest (.ofBytes b) } := by
  have hframe : s.frame = some b := by rw [State.frame, hlen]; exact hread
  rw [exec_parseJoinreq, execParseJoinreq, if_neg (by simp [rxEnds_eq_true, hlen, hcap]), hframe]
  rfl

/-! ### `PARSE.REJOIN` (R106) -/

/-- A frame without a type byte, or a length beyond the end of the buffer. -/
theorem parseRejoin_refuses_length {s : State} (h : s.rxLen.toNat < 2 ∨ s.par.phyMax < s.rxLen.toNat) :
    exec .parseRejoin s = .next (failedWith .errParse s) := by
  rw [exec_parseRejoin, execParseRejoin, if_pos (h.imp_right rxEnds_eq_true.2), raise_eq_failedWith]

/-- A type above 2, or a length that is not the type's. -/
theorem parseRejoin_refuses_type {s : State} {ty : Byte} (hty : s.byteOf .rx 1 = some ty)
    (h02 : ¬ ((ty = 0 ∨ ty = 2) ∧ s.rxLen = 19)) (h1 : ¬ (ty = 1 ∧ s.rxLen = 24)) :
    exec .parseRejoin s = .next (failedWith .errParse s) := by
  rw [exec_parseRejoin, execParseRejoin, hty, orFault_some, if_neg h02, if_neg h1, raise_eq_failedWith, ite_self]

theorem parseRejoin_accepts_02 {s : State} {b : List Byte} (hlen : s.rxLen = 19) (hcap : 19 ≤ s.par.phyMax)
    (hread : s.read .rx 0 19 = some b) (hty : byteAt b 1 = 0 ∨ byteAt b 1 = 2) :
    exec .parseRejoin s = .next { answeredOk [] s with fd := s.fd.setRejoin02 (.ofBytes b) } := by
  have hframe : s.frame = some b := by rw [State.frame, hlen]; exact hread
  rw [exec_parseRejoin, execParseRejoin, if_neg (by simp [rxEnds_eq_true, hlen, hcap]),
    byteOf_of_read hread (by omega), orFault_some, if_pos ⟨hty, hlen⟩, hframe]
  rfl

theorem parseRejoin_accepts_1 {s : State} {b : List Byte} (hlen : s.rxLen = 24) (hcap : 24 ≤ s.par.phyMax)
    (hread : s.read .rx 0 24 = some b) (hty : byteAt b 1 = 1) :
    exec .parseRejoin s = .next { answeredOk [] s with fd := s.fd.setRejoin1 (.ofBytes b) } := by
  have hframe : s.frame = some b := by rw [State.frame, hlen]; exact hread
  rw [exec_parseRejoin, execParseRejoin, if_neg (by simp [rxEnds_eq_true, hlen, hcap]),
    byteOf_of_read hread (by omega), orFault_some, if_neg (by simp [hlen]), if_pos ⟨hty, hlen⟩, hframe]
  rfl

/-! ### `PARSE.JOINACC` (R107) -/

/-- A length other than 17 and 33, or one beyond the end of the buffer. -/
theorem parseJoinacc_refuses {s : State} (h : (s.rxLen ≠ 17 ∧ s.rxLen ≠ 33) ∨ s.par.phyMax < s.rxLen.toNat) :
    exec .parseJoinacc s = .next (failedWith .errParse s) := by
  rw [exec_parseJoinacc, execParseJoinacc, if_pos (h.imp_right rxEnds_eq_true.2), raise_eq_failedWith]

theorem parseJoinacc_accepts {s : State} {b : List Byte} (hlen : s.rxLen = 17 ∨ s.rxLen = 33)
    (hcap : s.rxLen.toNat ≤ s.par.phyMax) (hread : s.read .rx 0 s.rxLen.toNat = some b) :
    exec .parseJoinacc s = .next (answeredOk [] (s.setJoinAccept (.ofBytes b))) := by
  rw [exec_parseJoinacc, execParseJoinacc, if_neg (not_or.2 ⟨by tauto, by rw [rxEnds_eq_true]; omega⟩),
    show s.frame = some b from hread]
  rfl

/-- The list of a join-accept is there in the longer of its two lengths. -/
theorem joinAccept_cflist_ofBytes {b : List Byte} {len : Byte} (h : b.length = len.toNat) :
    (JoinAccept.ofBytes b).cflist = if len = 33 then some (slice b 13 16) else none := by
  have hiff : b.length = 33 ↔ len = 33 := by rw [h]; bv_omega
  simp only [JoinAccept.ofBytes, hiff]

/-! ### `PARSE.DATA` (R108) -/

/-- A length below 12, or beyond the end of the buffer. -/
theorem parseData_refuses_length {s : State} (h : s.rxLen.toNat < 12 ∨ s.par.phyMax < s.rxLen.toNat) :
    exec .parseData s = .next (failedWith .errParse s) := by
  rw [exec_parseData, execParseData, withDataFrame, if_pos (h.imp_right rxEnds_eq_true.2), raise_eq_failedWith]

/-- Options that reach beyond the trailer. -/
theorem parseData_refuses_options {s : State} {c : Byte} (hc : s.byteOf .rx 5 = some c)
    (h : s.rxLen.toNat < 12 + foptsLen c) : exec .parseData s = .next (failedWith .errParse s) := by
  rw [exec_parseData, execParseData, withDataFrame, hc, orFault_some, if_pos h, raise_eq_failedWith, ite_self]

theorem parseData_accepts {s : State} {b : List Byte} (hcap : s.rxLen.toNat ≤ s.par.phyMax)
    (hread : s.read .rx 0 s.rxLen.toNat = some b) (hfit : 12 + foptsLen (byteAt b 5) ≤ s.rxLen.toNat) :
    exec .parseData s = .next (answeredOk [] (s.setDataFrame (.ofBytes b))) := by
  rw [exec_parseData, execParseData, withDataFrame, if_neg (by rw [rxEnds_eq_true]; omega),
    byteOf_of_read hread (by omega), orFault_some, if_neg (by omega), show s.frame = some b from hread]
  rfl

/-- The bytes of a data frame between the options and the trailer: a port byte, when there is one, and the payload. -/
def portAndPayloadLen (b : List Byte) : Nat := b.length - 12 - foptsLen (byteAt b 5)

theorem dataFrame_fport_ofBytes (b : List Byte) :
    (DataFrame.ofBytes b).fport.isSome = decide (1 ≤ portAndPayloadLen b)
    ∧ (DataFrame.ofBytes b).fport.getD 0
        = if 1 ≤ portAndPayloadLen b then byteAt b (8 + foptsLen (byteAt b 5)) else 0 := by
  have hfport : (DataFrame.ofBytes b).fport
      = if portAndPayloadLen b = 0 then none else some (byteAt b (8 + foptsLen (byteAt b 5))) := rfl
  rw [hfport]
  by_cases h : portAndPayloadLen b = 0
  · simp [h]
  · simp [h, Nat.one_le_iff_ne_zero]

theorem dataFrame_payload_length_ofBytes {b : List Byte} (hfit : 12 + foptsLen (byteAt b 5) ≤ b.length) :
    (DataFrame.ofBytes b).payload.length = portAndPayloadLen b - 1 := by
  by_cases h : portAndPayloadLen b = 0
  · have hpayload :
        (DataFrame.ofBytes b).payload = slice b (9 + foptsLen (byteAt b 5)) (portAndPayloadLen b - 1) := rfl
    rw [hpayload, h]
    simp [slice]
  · refine slice_length ?_
    simp only [portAndPayloadLen] at h
    omega

/-! ### `FRAME.CLASSIFY` (R109) and `PORT.CHECK` (R111) -/

/-- Kind, direction and confirmed of each `MType`, in the order of R63. -/
def mtypeTable : List (List Byte) :=
  [[0, 0, 0], [1, 1, 0], [2, 0, 0], [2, 1, 0], [2, 0, 1], [2, 1, 1], [3, 0, 0], [4, 0, 0]]

theorem classify_eq_table : ∀ m : BitVec 3, classify m = mtypeTable.getD m.toNat [] := by decide

/-- `MType` is bits 7:5 of the header byte (R62). -/
theorem toNat_mtype (h : Byte) : (h.extractLsb' 5 3).toNat = h.toNat / 32 := by
  have := h.isLt
  rw [BitVec.extractLsb'_toNat, Nat.shiftRight_eq_div_pow]
  omega

/-- `Major` is bits 1:0 of the header byte (R62). -/
theorem major_ne_zero_iff (h : Byte) : h.extractLsb' 0 2 ≠ 0 ↔ h.toNat % 4 ≠ 0 := by
  rw [Ne, ← BitVec.toNat_inj, BitVec.extractLsb'_toNat]
  simp

theorem frameClassify_refuses {s : State} (h : s.rxLen = 0 ∨ s.par.phyMax = 0) :
    exec .frameClassify s = .next (failedWith .errParse s) := by
  rw [exec_frameClassify, execFrameClassify, if_pos (h.imp_right fun h0 => rxEnds_eq_true.2 (by omega)),
    raise_eq_failedWith]

theorem frameClassify_eq {s : State} {h : Byte} (hlen : s.rxLen ≠ 0) (hcap : 1 ≤ s.par.phyMax)
    (hbyte : s.byteOf .rx 0 = some h) :
    exec .frameClassify s = .next
      (if h.toNat % 4 ≠ 0 then failedWith .errParse s
       else answeredOk (mtypeTable.getD (h.toNat / 32) []) s) := by
  rw [exec_frameClassify, execFrameClassify, if_neg (not_or.2 ⟨hlen, by rw [rxEnds_eq_true]; omega⟩), hbyte,
    orFault_some, classify_eq_table, toNat_mtype, raise_eq_failedWith, done_eq_answeredOk]
  simp only [major_ne_zero_iff, apply_ite Host.Outcome.next]

theorem portCheck_eq (port : Byte) (compliance : Bool) (s : State) :
    exec (.portCheck port compliance) s = .next
      (if 1 ≤ port.toNat ∧ port.toNat ≤ 223 then answeredOk [0] s
       else if port = 224 ∧ compliance = true then answeredOk [1] s
       else failedWith .errParam s) := by
  have h224 : port.toNat = 224 ↔ port = 224 := by bv_omega
  simp only [exec_portCheck, execPortCheck, portMin, portMax, portCompliance, h224, done_eq_answeredOk,
    raise_eq_failedWith, apply_ite Host.Outcome.next]

/-! ### `FRAME.MATCH_ADDR` (R113) -/

/-- A multicast entry is in use and has the address. -/
def EntryMatches (mc : Vector McEntry 4) (addr : Word) (h : BitVec 2) : Prop :=
  (at4 mc h).valid = true ∧ (at4 mc h).addr = addr

/-- The entries are searched in the order of their numbers. -/
theorem searchOrder_getElem? : ∀ h : BitVec 2, ([0, 1, 2, 3] : List (BitVec 2))[h.toNat]? = some h := by decide

theorem toNat_searchOrder : ∀ j : Fin 4, (([0, 1, 2, 3] : List (BitVec 2))[j]).toNat = j := by decide

/-- The search finds the lowest entry that matches. -/
theorem mcMatch_eq_some {mc : Vector McEntry 4} {addr : Word} {h : BitVec 2} (hm : EntryMatches mc addr h)
    (hlow : ∀ j : BitVec 2, j.toNat < h.toNat → ¬ EntryMatches mc addr j) : mcMatch mc addr = some h := by
  obtain ⟨hi, hget⟩ := List.getElem?_eq_some_iff.1 (searchOrder_getElem? h)
  refine List.find?_eq_some_iff_getElem.2 ⟨by simpa [EntryMatches] using hm, h.toNat, hi, hget, fun j hj => ?_⟩
  have hnum := toNat_searchOrder ⟨j, by omega⟩
  have hno := hlow _ (hnum.trans_lt hj)
  rw [EntryMatches, not_and_or] at hno
  simpa using hno

/-- The search finds nothing when no entry matches. -/
theorem mcMatch_eq_none {mc : Vector McEntry 4} {addr : Word} (hno : ∀ h : BitVec 2, ¬ EntryMatches mc addr h) :
    mcMatch mc addr = none :=
  List.find?_eq_none.2 fun h _ => by simpa [EntryMatches] using hno h

/-- The stream byte of a unicast frame: the application stream for an application port of a V1_1 device (R168). -/
theorem unicastStream_byte (v : Variant) (d : FrameDesc) :
    (unicastStream v d.port).setWidth 8 = if v = .v11 ∧ d.fportPresent = true ∧ d.fport ≠ 0 then (1 : Byte) else 0 := by
  unfold unicastStream FrameDesc.port
  cases d.fportPresent with
  | false => simp
  | true => simp [apply_ite (BitVec.setWidth 8)]

theorem frameMatchAddr_multicast {s : State} {h : BitVec 2} (hm : EntryMatches s.mc s.fd.devAddr h)
    (hlow : ∀ j : BitVec 2, j.toNat < h.toNat → ¬ EntryMatches s.mc s.fd.devAddr j) :
    exec .frameMatchAddr s = .next
      (if s.fd.fctrl.getLsbD 5 = true ∨ s.fd.fctrl.getLsbD 6 = true then failedWith .failMcFormat s
       else answeredOk ([BitVec.ofNat 8 (1 + h.toNat)] ++ le32 s.fd.devAddr ++ [BitVec.ofNat 8 (2 + h.toNat)]) s) := by
  have haddr : (at4 s.mc h).addr = s.fd.devAddr := hm.2
  simp only [exec_frameMatchAddr, execFrameMatchAddr, mcMatch_eq_some hm hlow, haddr, ackBit, adrAckReqBit,
    raise_eq_failedWith, done_eq_answeredOk]
  split <;> rfl

theorem frameMatchAddr_unicast {s : State} (hno : ∀ h : BitVec 2, ¬ EntryMatches s.mc s.fd.devAddr h) :
    exec .frameMatchAddr s = .next
      (if s.r.joined = true ∧ s.r.devAddr = s.fd.devAddr then
         answeredOk ([0] ++ le32 s.fd.devAddr
           ++ [if s.r.lwVariant = .v11 ∧ s.fd.fportPresent = true ∧ s.fd.fport ≠ 0 then 1 else 0]) s
       else failedWith .failAddress s) := by
  simp only [exec_frameMatchAddr, execFrameMatchAddr, mcMatch_eq_none hno, unicastStream_byte, raise_eq_failedWith,
    done_eq_answeredOk]
  split
  · next hown => rw [hown.2]
  · rfl

/-! ### `FRAME.PLACE_CMDS` (R112) -/

/-- The options length cleared. -/
theorem setFoptsLen_zero (f : Byte) : setFoptsLen f 0 = f &&& 0xF0 := by simp [setFoptsLen]

/-- A length of at most 15 fits the low nibble. -/
theorem setFoptsLen_of_le {f : Byte} {n : Nat} (h : n ≤ 15) : setFoptsLen f n = (f &&& 0xF0) ||| BitVec.ofNat 8 n := by
  have hn : BitVec.ofNat 8 n &&& 0x0F = BitVec.ofNat 8 n := by
    interval_cases n <;> rfl
  rw [setFoptsLen, hn]

theorem framePlaceCmds_none {cmds : List Byte} (maxPld : Byte) (s : State) (h : cmds.length = 0) :
    exec (.framePlaceCmds cmds maxPld) s = .next
      { answeredOk [0] s with fd := { s.fd with fctrl := s.fd.fctrl &&& 0xF0 } } := by
  rw [exec_framePlaceCmds, execFramePlaceCmds, if_pos h, setFoptsLen_zero]
  rfl

theorem framePlaceCmds_options {cmds : List Byte} (maxPld : Byte) (s : State) (h1 : 1 ≤ cmds.length)
    (h15 : cmds.length ≤ 15) :
    exec (.framePlaceCmds cmds maxPld) s = .next (answeredOk [1] { s.write .fopts 0 cmds with
      fd := { s.fd with fctrl := (s.fd.fctrl &&& 0xF0) ||| BitVec.ofNat 8 cmds.length } }) := by
  rw [exec_framePlaceCmds, execFramePlaceCmds, if_neg (by omega), if_pos h15, setFoptsLen_of_le h15,
    done_eq_answeredOk]

theorem framePlaceCmds_refuses {cmds : List Byte} {maxPld : Byte} {s : State} (h16 : 16 ≤ cmds.length)
    (hmax : maxPld.toNat < cmds.length) :
    exec (.framePlaceCmds cmds maxPld) s = .next (failedWith .errBufSize s) := by
  rw [exec_framePlaceCmds, execFramePlaceCmds, if_neg (by omega), if_neg (by simp only [foptsMax]; omega),
    if_pos (.inl hmax), raise_eq_failedWith]

theorem framePlaceCmds_alone {cmds : List Byte} {maxPld : Byte} {s : State} (h16 : 16 ≤ cmds.length)
    (hmax : cmds.length ≤ maxPld.toNat) (hcap : cmds.length ≤ s.par.phyMax) :
    exec (.framePlaceCmds cmds maxPld) s = .next
      (({ s.write .pld 0 cmds with
          fd := { s.fd with pldLen := BitVec.ofNat 8 cmds.length, fport := 0, fportPresent := true,
                            fctrl := s.fd.fctrl &&& 0xF0 } } : State).reply
        (if 0 < s.fd.pldLen.toNat then .infoSkippedAppData else .ok) [2]) := by
  have hpld : (if s.fd.pldLen = 0 then Status.ok else .infoSkippedAppData)
      = if 0 < s.fd.pldLen.toNat then .infoSkippedAppData else .ok := by
    have h0 : s.fd.pldLen = 0 ↔ ¬ 0 < s.fd.pldLen.toNat := by bv_omega
    simp only [h0, ite_not]
  rw [exec_framePlaceCmds, execFramePlaceCmds, if_neg (by omega), if_neg (by simp only [foptsMax]; omega),
    if_neg (by omega), setFoptsLen_zero, hpld]
  rfl

/-! ### The obligations -/

/-- Settles O17: each parser against its lengths, its types and its list of registers. -/
theorem parseJoinFrames : Obligations.ParseJoinFrames := by
  intro s
  refine ⟨fun h => ⟨parseJoinreq_refuses ?joinreqCap, parseRejoin_refuses_length (.inr h),
      parseJoinacc_refuses (.inr h)⟩,
    fun h => parseJoinreq_refuses (.inl h), fun b hlen hcap hread => ?joinreq,
    fun h => parseRejoin_refuses_length (.inl h), fun ty _ hty h02 h1 => parseRejoin_refuses_type hty h02 h1,
    fun b hlen hcap hread hty => ?rejoin02, fun b hlen hcap hread hty => ?rejoin1,
    fun h17 h33 => parseJoinacc_refuses (.inl ⟨h17, h33⟩), fun b hlen hcap hread => ?joinacc⟩
  case joinreqCap =>
    by_cases hlen : s.rxLen = 23
    · exact .inr (by simpa [hlen] using h)
    · exact .inl hlen
  case joinreq => exact parseJoinreq_accepts hlen (by simpa [hlen] using hcap) hread
  case rejoin02 => exact parseRejoin_accepts_02 hlen (by simpa [hlen] using hcap) hread hty
  case rejoin1 => exact parseRejoin_accepts_1 hlen (by simpa [hlen] using hcap) hread hty
  case joinacc =>
    have hb := length_of_read hread
    have hlist := joinAccept_cflist_ofBytes hb
    refine ⟨_, parseJoinacc_accepts hlen hcap hread, ?_, ?_⟩
    · have hpresent : (s.rxLen == 33) = (JoinAccept.ofBytes b).cflist.isSome := by
        rw [hlist]; rcases hlen with h | h <;> simp [h]
      rw [hpresent, ← hb]
      rfl
    · have hstored : (if s.rxLen = 33 then slice b 13 16 else []) = (JoinAccept.ofBytes b).cflist.getD [] := by
        rw [hlist]; split <;> rfl
      rw [hstored]
      exact stores_write s .cflist _

/-- Settles O18: the two refusals, and the fields of `DataFrame.ofBytes` in the words of R108. -/
theorem parseDataFrame : Obligations.ParseDataFrame := by
  intro s
  refine ⟨parseData_refuses_length, fun c _ hc h => parseData_refuses_options hc h, fun b hcap hread hfit => ?_⟩
  have hb := length_of_read hread
  obtain ⟨hpresent, hport⟩ := dataFrame_fport_ofBytes b
  have hlen := dataFrame_payload_length_ofBytes (hb ▸ hfit)
  refine ⟨_, parseData_accepts hcap hread hfit, ?_, ?_⟩
  · simp only [State.setDataFrame, hpresent, hport, hlen, ← hb]
    rfl
  · rw [← hb]
    intro d
    have hd := stores_write_write s (DataFrame.ofBytes b).fopts (DataFrame.ofBytes b).payload
      (show Buf.fopts ≠ .pld by decide) d
    cases d <;> exact hd

/-- Settles O22: what the search over the multicast entries finds decides which half of R113 applies. -/
theorem frameMatchAddr : Obligations.FrameMatchAddr :=
  fun _ => ⟨fun _ hvalid haddr hlow => frameMatchAddr_multicast ⟨hvalid, haddr⟩ hlow, frameMatchAddr_unicast⟩

/-- Settles O23: one clause for each place the commands can go to. -/
theorem framePlaceCmds : Obligations.FramePlaceCmds := by
  intro cmds maxPld s hcap _
  refine ⟨framePlaceCmds_none maxPld s, fun h1 h15 => ?options, framePlaceCmds_refuses, fun h16 hmax => ?alone⟩
  case options => exact ⟨_, framePlaceCmds_options maxPld s h1 h15, rfl, stores_write s .fopts cmds⟩
  case alone =>
    refine ⟨_, framePlaceCmds_alone h16 hmax hcap, ?_, stores_write s .pld cmds⟩
    split <;> rfl

/-- Settles O21: the `MType` table, and the three ranges of port numbers. -/
theorem classifyAndPortCheck : Obligations.ClassifyAndPortCheck :=
  fun port compliance s => ⟨frameClassify_refuses, fun _ => frameClassify_eq, portCheck_eq port compliance s⟩

end Sys2Proof.Proofs.FrameCodec
end

section
/-! The counter commands (42_counters.md): how the block numbers the multicast streams, what `FCNT.NEXT_UP`,
`FCNT.RECONSTRUCT` and `FCNT.RESET` answer, and the obligations of the family. -/

namespace Sys2Proof.Proofs.Counters

open Sys2Proof Sys2Proof.Machine
open Sys2Proof.Proofs.FrameCodec (raise_eq_failedWith done_eq_answeredOk)

/-! ### Which function each command runs -/

theorem exec_fcntNextUp (s : State) : exec .fcntNextUp s = execFcntNextUp s := rfl

theorem exec_fcntReconstruct (k : BitVec 3) (wire : Half) (s : State) :
    exec (.fcntReconstruct k wire) s = execFcntReconstruct k wire s := rfl

theorem exec_fcntReset (scope h : BitVec 2) (s : State) :
    exec (.fcntReset scope h) s = execFcntReset scope h s := rfl

/-! ### The streams (R160) -/

/-- The stream of a multicast entry is two above it: its three bits hold every entry's. -/
theorem mcStream_toNat (h : BitVec 2) : (mcStream h).toNat = 2 + h.toNat := by
  unfold mcStream
  bv_omega

/-- The entry of a multicast stream is two below it; streams 6 and 7 wrap on both sides alike. -/
theorem streamEntry_eq_ofNat {k : BitVec 3} (h2 : 2 ≤ k.toNat) : streamEntry k = BitVec.ofNat 2 (k.toNat - 2) := by
  unfold streamEntry
  bv_omega

/-- Clearing a multicast stream's valid bit, by the number of its entry. -/
theorem clearValid_mcStream (v : BitVec 6) (h : BitVec 2) :
    clearValid v (mcStream h) = v &&& ~~~(1#6 <<< (2 + h.toNat)) := by
  rw [clearValid, mcStream_toNat]

/-- A stream the reconstruction knows: unicast, or the stream of a multicast entry in use (R163). -/
def KnownStream (mc : Vector McEntry 4) (k : BitVec 3) : Prop :=
  k.toNat ≤ 5 ∧ (2 ≤ k.toNat → (at4 mc (streamEntry k)).valid = true)

theorem knownStream_iff {mc : Vector McEntry 4} {k : BitVec 3} :
    KnownStream mc k ↔
      k.toNat ≤ 5 ∧ (2 ≤ k.toNat → (at4 mc (BitVec.ofNat 2 (k.toNat - 2))).valid = true) :=
  and_congr_right fun _ => forall_congr' fun h2 => by rw [streamEntry_eq_ofNat h2]

/-! ### `FCNT.NEXT_UP` (R161) -/

theorem fcntNextUp_eq (s : State) :
    exec .fcntNextUp s = .next
      (if s.r.fcntUp = 0xFFFFFFFF then failedWith .failFcntSmaller s else answeredOk (le32 (s.r.fcntUp + 1)) s) := by
  have hend : s.r.fcntUp.toNat = 2 ^ 32 - 1 ↔ s.r.fcntUp = 0xFFFFFFFF := by bv_omega
  simp only [exec_fcntNextUp, execFcntNextUp, hend, raise_eq_failedWith, done_eq_answeredOk]
  split <;> rfl

/-! ### `FCNT.RECONSTRUCT` (R163) -/

/-- The two tests of `FCNT.RECONSTRUCT` on its stream are one: the stream is known. -/
theorem fcntReconstruct_unknown {k : BitVec 3} {s : State} (wire : Half) (h : ¬ KnownStream s.mc k) :
    exec (.fcntReconstruct k wire) s = .next (failedWith .errParam s) := by
  rw [exec_fcntReconstruct, execFcntReconstruct]
  by_cases h5 : 5 < k.toNat
  · rw [if_pos h5, raise_eq_failedWith]
  · have hfree : 2 ≤ k.toNat ∧ (at4 s.mc (streamEntry k)).valid = false := by
      simpa [KnownStream, Nat.le_of_not_lt h5] using h
    rw [if_neg h5, if_pos hfree, raise_eq_failedWith]

/-- On a known stream nothing is left of the refusals but the tests of the counter. -/
theorem fcntReconstruct_known {k : BitVec 3} {s : State} (wire : Half) (h : KnownStream s.mc k) :
    exec (.fcntReconstruct k wire) s =
      if streamValid s.r.fcntValid k = false then done (leBytes 4 wire.toNat ++ [0]) s
      else if wire.toNat = (lastFcnt s.r k).toNat % 65536 then raise .failFcntDuplicated s
      else if 2 ^ 32 ≤ candidate (lastFcnt s.r k) wire then raise .failFcntSmaller s
      else if s.par.maxFcntGap < candidate (lastFcnt s.r k) wire - (lastFcnt s.r k).toNat then raise .failMaxGap s
      else done (leBytes 4 (candidate (lastFcnt s.r k) wire)
        ++ [bitByte (decide (wire.toNat < (lastFcnt s.r k).toNat % 65536))]) s := by
  obtain ⟨h5, hvalid⟩ := h
  have hused : ¬ (2 ≤ k.toNat ∧ (at4 s.mc (streamEntry k)).valid = false) := fun ⟨h2, hfree⟩ => by
    simp [hvalid h2] at hfree
  rw [exec_fcntReconstruct, execFcntReconstruct, if_neg (Nat.not_lt.2 h5), if_neg hused]

/-- The candidate as R163 computes it: from the high half of the last counter where the wire value has rolled over. -/
theorem candidate_eq (last : Word) (wire : Half) :
    candidate last wire =
      if last.toNat % 65536 < wire.toNat then last.toNat + (wire.toNat - last.toNat % 65536)
      else last.toNat / 65536 * 65536 + 65536 + wire.toNat := by
  have hhigh : last.toNat - last.toNat % 65536 = last.toNat / 65536 * 65536 := by omega
  simp only [candidate, hhigh]

/-- A wire value is its own counter on a stream that has accepted nothing. -/
theorem le32_setWidth_half (wire : Half) : le32 (wire.setWidth 32) = leBytes 4 wire.toNat := by
  have hwire : (wire.setWidth 32).toNat = wire.toNat := by bv_omega
  rw [le32, hwire]

/-- A number of the counter space keeps its bytes as a 32-bit word. -/
theorem le32_ofNat {c : Nat} (hc : c < 2 ^ 32) : le32 (BitVec.ofNat 32 c) = leBytes 4 c := by
  rw [le32, BitVec.toNat_ofNat, Nat.mod_eq_of_lt hc]

theorem fcntReconstruct_first {k : BitVec 3} {s : State} (wire : Half) (h : KnownStream s.mc k)
    (hv : streamValid s.r.fcntValid k = false) :
    exec (.fcntReconstruct k wire) s = .next (answeredOk (le32 (wire.setWidth 32) ++ [0]) s) := by
  rw [fcntReconstruct_known wire h, if_pos hv, done_eq_answeredOk, le32_setWidth_half]

theorem fcntReconstruct_next {k : BitVec 3} {s : State} (wire : Half) (h : KnownStream s.mc k)
    (hv : streamValid s.r.fcntValid k = true) :
    exec (.fcntReconstruct k wire) s = .next
      (if wire.toNat = (lastFcnt s.r k).toNat % 65536 then failedWith .failFcntDuplicated s
       else if 2 ^ 32 ≤ candidate (lastFcnt s.r k) wire then failedWith .failFcntSmaller s
       else if s.par.maxFcntGap < candidate (lastFcnt s.r k) wire - (lastFcnt s.r k).toNat then
         failedWith .failMaxGap s
       else answeredOk (le32 (BitVec.ofNat 32 (candidate (lastFcnt s.r k) wire))
         ++ [if wire.toNat < (lastFcnt s.r k).toNat % 65536 then 1 else 0]) s) := by
  rw [fcntReconstruct_known wire h, if_neg (by simp [hv])]
  split
  case isTrue => rw [raise_eq_failedWith]
  case isFalse =>
    split
    case isTrue => rw [raise_eq_failedWith]
    case isFalse hspace =>
      rw [le32_ofNat (Nat.lt_of_not_le hspace)]
      simp only [raise_eq_failedWith, done_eq_answeredOk, bitByte, decide_eq_true_eq]
      split <;> rfl

/-! ### `FCNT.RESET` (R167) -/

/-- The two bits of a scope: the three of R167 and the one it refuses. -/
theorem scope_cases (scope : BitVec 2) : scope = 0 ∨ scope = 1 ∨ scope = 2 ∨ scope = 3 := by
  bv_omega

theorem fcntReset_illegal (h : BitVec 2) (s : State) :
    exec (.fcntReset 3 h) s = .next (failedWith .errParam s) := rfl

theorem fcntReset_unicast (h : BitVec 2) (s : State) :
    exec (.fcntReset 0 h) s = .next { answeredOk [] s with r := clearUnicast s.r } := rfl

theorem fcntReset_multicast (h : BitVec 2) (s : State) :
    exec (.fcntReset 1 h) s = .next { answeredOk [] s with r := clearMcStream s.r h } := rfl

theorem fcntReset_all (h : BitVec 2) (s : State) :
    exec (.fcntReset 2 h) s = .next { answeredOk [] s with r :=
      { clearUnicast s.r with mcFcntDown := Vector.replicate 4 0, fcntValid := 0 } } := rfl

/-! ### The obligations -/

/-- Settles O38: the stream is known or not, and a known one has accepted a counter or none; `candidate` is the number
R163 names. -/
theorem counterReconstruct : Obligations.CounterReconstruct := by
  intro k wire s
  refine ⟨fun h => ?unknown, fun h hv => ?first, fun h hv => ?next⟩
  case unknown => exact fcntReconstruct_unknown wire (mt knownStream_iff.1 h)
  case first => exact fcntReconstruct_first wire (knownStream_iff.2 h) hv
  case next =>
    have hnext := fcntReconstruct_next wire (knownStream_iff.2 h) hv
    rw [candidate_eq] at hnext
    exact hnext

/-- Settles O37: the counter space ends at `2 ^ 32 - 1`, and one rule for each scope. -/
theorem counterNextAndReset : Obligations.CounterNextAndReset := by
  intro s scope h
  refine ⟨fcntNextUp_eq s, ?_⟩
  obtain rfl | rfl | rfl | rfl := scope_cases scope
  · exact fcntReset_unicast h s
  · rw [fcntReset_multicast, clearMcStream, clearValid_mcStream]
    rfl
  · exact fcntReset_all h s
  · exact fcntReset_illegal h s

end Sys2Proof.Proofs.Counters
end

section
/-! Duty cycle, ADR and acknowledgment retries (43_dutycycle_adr.md): what the seven commands answer, first as rules
about each command, then as the obligations of the family. -/

namespace Sys2Proof.Proofs.DutyCycleAdr

open Sys2Proof Sys2Proof.Machine
open Sys2Proof.Proofs.FrameCodec (raise_eq_failedWith done_eq_answeredOk)

/-! ### Which function each command runs -/

theorem exec_dcTxUpdate (now toa : Word) (channel : Byte) (s : State) :
    exec (.dcTxUpdate now toa channel) s = execDcTxUpdate now toa channel s := rfl

theorem exec_dcSchedule (now : Word) (allow : Bool) (s : State) :
    exec (.dcSchedule now allow) s = execDcSchedule now allow s := rfl

theorem exec_adrNext (s : State) : exec .adrNext s = execAdrNext s := rfl

theorem exec_adrUplinkEnd (down : Bool) (s : State) : exec (.adrUplinkEnd down) s = execAdrUplinkEnd down s := rfl

theorem exec_ackStart (retries : Byte) (s : State) : exec (.ackStart retries) s = execAckStart retries s := rfl

theorem exec_ackTimeout (s : State) : exec .ackTimeout s = execAckTimeout s := rfl

theorem exec_ackReceived (s : State) : exec .ackReceived s = execAckReceived s := rfl

/-! ### The state after a question to the Region -/

/-- A call adds itself to the trace and may use up an answer held ready. -/
theorem eq_of_callsOnly {s s' : State} {c : Call} (h : CallsOnly s s') (htrace : s'.trace = s.trace ++ [c]) :
    s' = { s with trace := s.trace ++ [c], script := s'.script } := by
  rw [← htrace]
  exact h.symm

theorem regionNextChannel_trace (now : Word) (dr : Byte) (joined : Bool) (wait : Word) (s : State) :
    (regionNextChannel now dr joined wait s).2.trace = s.trace ++ [.regionNextChannel now dr joined wait] := by
  unfold regionNextChannel; dsimp only; split <;> rfl

theorem regionAdrNext_trace (cnt : Word) (dr pw : Byte) (s : State) :
    (regionAdrNext cnt dr pw s).2.trace = s.trace ++ [.regionAdrNext cnt dr pw] := by
  unfold regionAdrNext; dsimp only; split <;> rfl

theorem regionNextLowerDr_trace (dr : Byte) (s : State) :
    (regionNextLowerDr dr s).2.trace = s.trace ++ [.regionNextLowerDr dr] := by
  unfold regionNextLowerDr; dsimp only; split <;> rfl

theorem regionNextChannel_state (now : Word) (dr : Byte) (joined : Bool) (wait : Word) (s : State) :
    (regionNextChannel now dr joined wait s).2 =
      { s with trace := s.trace ++ [.regionNextChannel now dr joined wait],
               script := (regionNextChannel now dr joined wait s).2.script } :=
  eq_of_callsOnly (regionNextChannel_frame now dr joined wait s) (regionNextChannel_trace now dr joined wait s)

theorem regionAdrNext_state (cnt : Word) (dr pw : Byte) (s : State) :
    (regionAdrNext cnt dr pw s).2 =
      { s with trace := s.trace ++ [.regionAdrNext cnt dr pw], script := (regionAdrNext cnt dr pw s).2.script } :=
  eq_of_callsOnly (regionAdrNext_frame cnt dr pw s) (regionAdrNext_trace cnt dr pw s)

theorem regionNextLowerDr_state (dr : Byte) (s : State) :
    (regionNextLowerDr dr s).2 =
      { s with trace := s.trace ++ [.regionNextLowerDr dr], script := (regionNextLowerDr dr s).2.script } :=
  eq_of_callsOnly (regionNextLowerDr_frame dr s) (regionNextLowerDr_trace dr s)

/-! ### Duty cycle (R176, R177) -/

theorem dcTxUpdate_eq (now toa : Word) (channel : Byte) (s : State) :
    exec (.dcTxUpdate now toa channel) s = .next
      (if 2 ^ 32 ≤ timeOff toa s.r.aggDcycle then failedWith .errParam s
       else { answeredOk [] s with
        r := { s.r with aggTimeOff := BitVec.ofNat 32 (timeOff toa s.r.aggDcycle), lastAggTx := now,
                        aggTxValid := true }
        trace := s.trace ++ [.regionTxDone channel s.r.joined now toa] }) := by
  rw [exec_dcTxUpdate, execDcTxUpdate]
  split
  · rw [raise_eq_failedWith]
  · rfl

/-- The wait as R177 computes it, in numbers: the subtraction is of a smaller number from a larger one. -/
theorem aggWait_eq (r : Regs) (now : Word) :
    aggWait r now =
      if r.aggTxValid = true ∧ (now - r.lastAggTx).toNat < r.aggTimeOff.toNat
      then BitVec.ofNat 32 (r.aggTimeOff.toNat - (now - r.lastAggTx).toNat) else 0 := by
  simp only [aggWait, BitVec.lt_def]
  refine if_ctx_congr Iff.rfl (fun hleft => ?_) fun _ => rfl
  rw [← BitVec.toNat_sub_of_le (BitVec.le_def.2 hleft.2.le), BitVec.ofNat_toNat, BitVec.setWidth_eq]

theorem maxWord_eq_ofNat (a b : Word) : maxWord a b = BitVec.ofNat 32 (max a.toNat b.toNat) := by
  rw [maxWord]
  split
  case isTrue h => rw [max_eq_right (BitVec.lt_def.1 h).le, BitVec.ofNat_toNat, BitVec.setWidth_eq]
  case isFalse h => rw [max_eq_left (Nat.le_of_not_lt (mt BitVec.lt_def.2 h)), BitVec.ofNat_toNat, BitVec.setWidth_eq]

theorem dcSchedule_noChannel {now : Word} {s : State} (allow : Bool)
    (hnone : (regionNextChannel now s.r.chDatarate s.r.joined (aggWait s.r now) s).1 = none) :
    exec (.dcSchedule now allow) s = .next
      (failedWith .errNoFreeChannel (regionNextChannel now s.r.chDatarate s.r.joined (aggWait s.r now) s).2) := by
  rw [exec_dcSchedule, execDcSchedule, ← raise_eq_failedWith]
  generalize regionNextChannel now s.r.chDatarate s.r.joined (aggWait s.r now) s = r at hnone ⊢
  obtain ⟨answer, asked⟩ := r
  subst hnone
  rfl

/-- With a channel the larger of the two waits decides: none, a delayed transmission, or the restriction. -/
theorem dcSchedule_channel {now w : Word} {ch : Byte} {s : State} (allow : Bool)
    (hsome : (regionNextChannel now s.r.chDatarate s.r.joined (aggWait s.r now) s).1 = some (ch, w)) :
    let asked := (regionNextChannel now s.r.chDatarate s.r.joined (aggWait s.r now) s).2
    let backoff := maxWord (aggWait s.r now) w
    exec (.dcSchedule now allow) s = .next
      (if backoff = 0 then answeredOk ([0, ch, asked.r.chDatarate] ++ le32 0) asked
       else if allow = true then
         answeredOk ([1, ch, asked.r.chDatarate] ++ le32 backoff)
           { asked with t := asked.t.arm .dcDelay (now + backoff) }
       else asked.reply .errDutycycleRestricted (le32 backoff)) := by
  rw [exec_dcSchedule, execDcSchedule]
  generalize regionNextChannel now s.r.chDatarate s.r.joined (aggWait s.r now) s = r at hsome ⊢
  obtain ⟨answer, asked⟩ := r
  subst hsome
  simp only [done_eq_answeredOk, raiseWith, ← apply_ite Host.Outcome.next]

/-! ### ADR (R179, R180) -/

theorem setAdrBits_on (f : Byte) (req : Bool) :
    setAdrBits f true req = (f &&& 0x3F) ||| (if req then 0xC0 else 0x80) := by
  cases req
  · simp [setAdrBits]
  · simp [setAdrBits, BitVec.or_assoc]

theorem setAdrBits_off (f : Byte) : setAdrBits f false false = f &&& 0x3F := by simp [setAdrBits]

theorem adrFinish_on {s : State} (hon : s.r.adrOn = true) (req : Bool) :
    adrFinish req s = .next { answeredOk [s.r.chDatarate, s.r.chTxPower, if req then 1 else 0] s with
      fd := { s.fd with fctrl := (s.fd.fctrl &&& 0x3F) ||| (if req then 0xC0 else 0x80) } } := by
  rw [← setAdrBits_on, adrFinish, hon]
  rfl

theorem adrNext_off {s : State} (hoff : s.r.adrOn = false) :
    exec .adrNext s = .next { answeredOk [s.r.chDatarate, s.r.chTxPower, 0] s with
      fd := { s.fd with fctrl := s.fd.fctrl &&& 0x3F } } := by
  rw [exec_adrNext, execAdrNext, if_pos (by simp [hoff]), adrFinish, hoff, setAdrBits_off]
  rfl

/-- With ADR on, the Region's datarate and power are stored and its request bit goes into `FCtrl`. -/
theorem adrNext_on {s : State} {dr pw : Byte} {req : Bool} (hon : s.r.adrOn = true)
    (hask : (regionAdrNext s.r.adrAckCnt s.r.chDatarate s.r.chTxPower s).1 = (dr, pw, req)) :
    exec .adrNext s = .next
      { answeredOk [dr, pw, if req then 1 else 0] s with
        fd := { s.fd with fctrl := (s.fd.fctrl &&& 0x3F) ||| (if req then 0xC0 else 0x80) }
        r := { s.r with chDatarate := dr, chTxPower := pw }
        trace := s.trace ++ [.regionAdrNext s.r.adrAckCnt s.r.chDatarate s.r.chTxPower]
        script := (regionAdrNext s.r.adrAckCnt s.r.chDatarate s.r.chTxPower s).2.script } := by
  have hstate := regionAdrNext_state s.r.adrAckCnt s.r.chDatarate s.r.chTxPower s
  rw [exec_adrNext, execAdrNext, if_neg (by simp [hon])]
  generalize regionAdrNext s.r.adrAckCnt s.r.chDatarate s.r.chTxPower s = r at hask hstate ⊢
  obtain ⟨answer, asked⟩ := r
  subst hask
  dsimp only at hstate ⊢
  rw [hstate]
  refine adrFinish_on ?_ req
  exact hon

theorem add_one_eq_ofNat_min {c : Word} (h : c.toNat < 2 ^ 32 - 1) :
    c + 1 = BitVec.ofNat 32 (min (c.toNat + 1) (2 ^ 32 - 1)) := by
  rw [min_eq_left h]
  bv_omega

theorem eq_ofNat_min_of_full {c : Word} (h : ¬ c.toNat < 2 ^ 32 - 1) :
    c = BitVec.ofNat 32 (min (c.toNat + 1) (2 ^ 32 - 1)) := by
  rw [min_eq_right (by omega)]
  bv_omega

theorem adrUplinkEnd_eq (down : Bool) (s : State) :
    exec (.adrUplinkEnd down) s = .next { answeredOk [] s with
      r := { s.r with
        adrAckCnt := if s.r.adrOn = true ∧ down = false
          then BitVec.ofNat 32 (min (s.r.adrAckCnt.toNat + 1) (2 ^ 32 - 1)) else s.r.adrAckCnt } } := by
  rw [exec_adrUplinkEnd, execAdrUplinkEnd]
  by_cases hcounts : s.r.adrOn = true ∧ down = false
  · rw [if_pos hcounts]
    by_cases hroom : s.r.adrAckCnt.toNat < 2 ^ 32 - 1
    · rw [if_pos (and_assoc.1 ⟨hcounts, hroom⟩), ← add_one_eq_ofNat_min hroom]
      rfl
    · rw [if_neg fun ⟨_, _, hlt⟩ => hroom hlt, ← eq_ofNat_min_of_full hroom]
      rfl
  · rw [if_neg hcounts, if_neg fun ⟨hon, hup, _⟩ => hcounts ⟨hon, hup⟩]
    rfl

/-! ### Acknowledgments (R182 to R184) -/

/-- The ceiling fits its four bits, so the answer's byte shows all of it. -/
theorem retryCeiling_setWidth (retries : Byte) :
    (retryCeiling retries).setWidth 8 = BitVec.ofNat 8 (min (max retries.toNat 1) 8) := by
  have hceil : min (max retries.toNat 1) 8 < 2 ^ 4 := by omega
  apply BitVec.eq_of_toNat_eq
  rw [BitVec.toNat_setWidth, retryCeiling, BitVec.toNat_ofNat, Nat.mod_eq_of_lt hceil, BitVec.toNat_ofNat]

theorem ackStart_eq (retries : Byte) (s : State) :
    exec (.ackStart retries) s = .next
      { answeredOk [BitVec.ofNat 8 (min (max retries.toNat 1) 8)] s with
        r := { s.r with ackRetries := BitVec.ofNat 4 (min (max retries.toNat 1) 8), ackRetryCnt := 1 } } := by
  rw [exec_ackStart, execAckStart, retryCeiling_setWidth]
  rfl

theorem ackTimeout_idle {s : State} (h : s.r.ackRetryCnt = 0) :
    exec .ackTimeout s = .next (failedWith .errParam s) := by
  rw [exec_ackTimeout, execAckTimeout, if_pos h, raise_eq_failedWith]

theorem ackReceived_idle {s : State} (h : s.r.ackRetryCnt = 0) :
    exec .ackReceived s = .next (failedWith .errParam s) := by
  rw [exec_ackReceived, execAckReceived, if_pos h, raise_eq_failedWith]

theorem ackReceived_eq {s : State} (h : s.r.ackRetryCnt ≠ 0) :
    exec .ackReceived s = .next
      { answeredOk [s.r.ackRetryCnt.setWidth 8, 1, s.r.chDatarate] s with
        r := { s.r with ackRetryCnt := 0 }
        t := { s.t with ackTo := { armed := false, due := s.t.ackTo.due } } } := by
  rw [exec_ackReceived, execAckReceived, if_neg h]
  rfl

/-- The four class A timers keep their due times (R183). -/
theorem disarmClassA_eq (t : Timers) :
    t.disarmClassA = { t with
      rx1 := { t.rx1 with armed := false }, rx2 := { t.rx2 with armed := false },
      ackTo := { t.ackTo with armed := false }, dcDelay := { t.dcDelay with armed := false } } := rfl

theorem ackTimeout_exhausted {s : State} (hrun : s.r.ackRetryCnt ≠ 0)
    (hlast : s.r.ackRetries.toNat ≤ s.r.ackRetryCnt.toNat) :
    exec .ackTimeout s = .next
      { s with
        status := .failAckExhausted
        answer := [0x12, 1, s.r.ackRetryCnt.setWidth 8, 0, s.r.chDatarate]
        r := { s.r with ackRetryCnt := 0 }
        t := { s.t with rx1 := { s.t.rx1 with armed := false }, rx2 := { s.t.rx2 with armed := false },
                        ackTo := { s.t.ackTo with armed := false }, dcDelay := { s.t.dcDelay with armed := false } }
        trace := s.trace ++ [.regionRestoreDefaults] } := by
  rw [exec_ackTimeout, execAckTimeout, if_neg hrun, if_pos (BitVec.le_def.2 hlast), ackGiveUp, disarmClassA_eq]
  rfl

/-- A timeout that leaves retries: the count goes up, and `ackStep` settles the datarate of the retransmission. -/
theorem ackTimeout_retransmit {s : State} (hrun : s.r.ackRetryCnt ≠ 0)
    (hmore : s.r.ackRetryCnt.toNat < s.r.ackRetries.toNat) :
    let next := ackStep { s with r := { s.r with ackRetryCnt := s.r.ackRetryCnt + 1 } }
    exec .ackTimeout s = .next (answeredOk [0, next.r.ackRetryCnt.setWidth 8, 0, next.r.chDatarate] next) := by
  have hless : ¬ s.r.ackRetries ≤ s.r.ackRetryCnt := by rw [BitVec.le_def]; exact Nat.not_le.2 hmore
  rw [exec_ackTimeout, execAckTimeout, if_neg hrun, if_neg hless]
  rfl

theorem ackStep_even {s : State} (h : ¬ s.r.ackRetryCnt.toNat % 2 = 1) : ackStep s = s := by
  rw [ackStep, if_neg (by simpa [BitVec.getLsbD, Nat.testBit_zero] using h)]

theorem ackStep_odd {s : State} (h : s.r.ackRetryCnt.toNat % 2 = 1) :
    ackStep s = { s with
      r := { s.r with chDatarate := (regionNextLowerDr s.r.chDatarate s).1 }
      trace := s.trace ++ [.regionNextLowerDr s.r.chDatarate]
      script := (regionNextLowerDr s.r.chDatarate s).2.script } := by
  rw [ackStep, if_pos (by simpa [BitVec.getLsbD, Nat.testBit_zero] using h)]
  dsimp only
  rw [regionNextLowerDr_state]

/-! ### The obligations -/

/-- Settles O40: the wait of R177 and the larger of two waits, in numbers, then one rule for each answer of the
Region. -/
theorem dutyCycleCommands : Obligations.DutyCycleCommands := by
  refine ⟨dcTxUpdate_eq, fun now allow s => ?_⟩
  intro elapsed wait r asked
  have hwait : aggWait s.r now = wait := aggWait_eq s.r now
  have hcall : regionNextChannel now s.r.chDatarate s.r.joined (aggWait s.r now) s = r := by rw [hwait]
  have hasked : r.2 = asked := regionNextChannel_state ..
  refine ⟨fun hnone => ?none, fun ch w hsome => ?some⟩
  case none =>
    rw [dcSchedule_noChannel allow (by rw [hcall, hnone]), hcall, hasked]
  case some =>
    rw [dcSchedule_channel allow (by rw [hcall, hsome]), hcall, hasked, hwait, maxWord_eq_ofNat]
    rfl

/-- Settles O42: ADR off, ADR on with the Region's answer, and the end of an uplink. -/
theorem adrCommands : Obligations.AdrCommands :=
  fun s down => ⟨adrNext_off, fun _ _ _ => adrNext_on, adrUplinkEnd_eq down s⟩

/-- Settles O43: no exchange, the last timeout, or one that leaves retries, where the new count's lowest bit decides
the datarate. -/
theorem ackCommands : Obligations.AckCommands := by
  intro s retries
  refine ⟨ackStart_eq retries s, fun h => ⟨ackTimeout_idle h, ackReceived_idle h⟩, ackReceived_eq,
    ackTimeout_exhausted, fun hrun hmore => ?_⟩
  intro n asked
  rw [ackTimeout_retransmit hrun hmore]
  split
  case isTrue hodd =>
    rw [ackStep_odd hodd]
    rfl
  case isFalse heven =>
    rw [ackStep_even heven]
    rfl

end Sys2Proof.Proofs.DutyCycleAdr
end

section
/-! The receive windows of class A and class C (44_rx_windows.md): what `RXW.TX_DONE`, `RXW.OPEN` and `RXW.RX_DONE`
answer, first as rules about the steps they share, then about each command, then as the obligations of the family. -/

namespace Sys2Proof.Proofs.RxWindows

open Sys2Proof Sys2Proof.Machine
open Sys2Proof.Proofs.FrameCodec (raise_eq_failedWith done_eq_answeredOk)
open Sys2Proof.Proofs.DutyCycleAdr (eq_of_callsOnly)

/-! ### Which function each command runs -/

theorem exec_rxwTxDone (now : Word) (confirmed : Bool) (s : State) :
    exec (.rxwTxDone now confirmed) s = execRxwTxDone now confirmed s := rfl

theorem exec_rxwOpen (win2 : Bool) (s : State) : exec (.rxwOpen win2) s = execRxwOpen win2 s := rfl

theorem exec_rxwRxDone (outcome : BitVec 2) (s : State) : exec (.rxwRxDone outcome) s = execRxwRxDone outcome s := rfl

/-! ### The state after a question to the Region -/

theorem regionWindow_trace (c : Call) (s : State) : (regionWindow c s).2.trace = s.trace ++ [c] := by
  unfold regionWindow; dsimp only; split <;> rfl

theorem regionRxConfig_trace (slot : RxSlot) (arg : Byte) (mcPhy : Option (Word × Byte)) (s : State) :
    (regionRxConfig slot arg mcPhy s).2.trace = s.trace ++ [.regionRxConfig slot arg mcPhy] := by
  unfold regionRxConfig; dsimp only; split <;> rfl

theorem regionWindow_state (c : Call) (s : State) :
    (regionWindow c s).2 = { s with trace := s.trace ++ [c], script := (regionWindow c s).2.script } :=
  eq_of_callsOnly (regionWindow_frame c s) (regionWindow_trace c s)

theorem regionRxConfig_state (slot : RxSlot) (arg : Byte) (mcPhy : Option (Word × Byte)) (s : State) :
    (regionRxConfig slot arg mcPhy s).2 =
      { s with trace := s.trace ++ [.regionRxConfig slot arg mcPhy],
               script := (regionRxConfig slot arg mcPhy s).2.script } :=
  eq_of_callsOnly (regionRxConfig_frame slot arg mcPhy s) (regionRxConfig_trace slot arg mcPhy s)

@[simp] theorem regionWindow_r (c : Call) (s : State) : (regionWindow c s).2.r = s.r := by rw [regionWindow_state]

/-- A reception opened: the configuration is asked for, its answer is not looked at, and the Radio receives. -/
theorem listen_state (slot : RxSlot) (arg : Byte) (mcPhy : Option (Word × Byte)) (limit : Word) (s : State) :
    listen slot arg mcPhy limit s =
      { s with trace := s.trace ++ [.regionRxConfig slot arg mcPhy, .radioReceive limit],
               script := (listen slot arg mcPhy limit s).script } := by
  have htrace : (listen slot arg mcPhy limit s).trace
      = s.trace ++ [.regionRxConfig slot arg mcPhy, .radioReceive limit] := by
    simp [Machine.listen, regionRxConfig_trace]
  rw [← htrace]
  exact (listen_frame slot arg mcPhy limit s).symm

/-! ### The end of an exchange step: class C listens again, another class sleeps (R201, R203) -/

theorem restOrListen_state (s : State) :
    restOrListen s = { s with
      r := { s.r with rxSlot := if s.r.deviceClass = .c then .classC else .none }
      trace := s.trace ++ (if s.r.deviceClass = .c
        then [.regionRxConfig .classC s.r.chDatarate none, .radioReceive 0] else [.radioSleep])
      script := (restOrListen s).script } := by
  by_cases hclass : s.r.deviceClass = .c
  · simp only [restOrListen, if_pos hclass]
    exact listen_state .classC s.r.chDatarate none 0 (s.setSlot .classC)
  · simp only [restOrListen, if_neg hclass]
    rfl

/-! ### `RXW.TX_DONE` (R201) -/

/-- The Region's answer about RX1, and the state after the question. -/
def rx1Asked (s : State) : (Word × Word) × State := regionWindow (.regionRxWindow .win1 s.r.chDatarate) s

/-- The Region's answer about RX2, which is asked for after RX1. -/
def rx2Asked (s : State) : (Word × Word) × State :=
  regionWindow (.regionRxWindow .win2 s.r.chDatarate) (rx1Asked s).2

theorem rx2Asked_state (s : State) :
    (rx2Asked s).2 = { s with
      trace := s.trace ++ [.regionRxWindow .win1 s.r.chDatarate, .regionRxWindow .win2 s.r.chDatarate]
      script := (rx2Asked s).2.script } := by
  have htrace : (rx2Asked s).2.trace
      = s.trace ++ [.regionRxWindow .win1 s.r.chDatarate, .regionRxWindow .win2 s.r.chDatarate] := by
    simp [rx2Asked, rx1Asked, regionWindow_trace]
  rw [← htrace]
  exact ((regionWindow_frame _ s).trans (regionWindow_frame _ _)).symm

theorem rxDelays_fst (r : Regs) : (rxDelays r).1 = if r.joined then r.receiveDelay1 else r.joinAcceptDelay1 := by
  rw [rxDelays, apply_ite Prod.fst]

theorem rxDelays_snd (r : Regs) : (rxDelays r).2 = if r.joined then r.receiveDelay2 else r.joinAcceptDelay2 := by
  rw [rxDelays, apply_ite Prod.snd]

theorem armRx_eq (t1 t2 : Word) (confirmed : Bool) (s : State) :
    armRx t1 t2 confirmed s = { s with
      t := { s.t with
        rx1 := { armed := true, due := t1 }, rx2 := { armed := true, due := t2 },
        ackTo := if confirmed then { armed := true, due := t2 + s.par.ackTimeout } else s.t.ackTo } } := by
  cases confirmed <;> rfl

theorem rxwTxDone_eq (now : Word) (confirmed : Bool) (s : State) :
    let t1 := now + (if s.r.joined then s.r.receiveDelay1 else s.r.joinAcceptDelay1) + (rx1Asked s).1.1
    let t2 := now + (if s.r.joined then s.r.receiveDelay2 else s.r.joinAcceptDelay2) + (rx2Asked s).1.1
    exec (.rxwTxDone now confirmed) s = .next
      (answeredOk (le32 t1 ++ le32 t2) (restOrListen (armRx t1 t2 confirmed (rx2Asked s).2))) := by
  intro t1 t2
  simp only [exec_rxwTxDone, execRxwTxDone, regionWindow_r, rxDelays_fst, rxDelays_snd, done_eq_answeredOk]
  rfl

/-! ### `RXW.OPEN` (R202) -/

/-- The Region's window of an `RXW.OPEN`, and the state after the question. -/
def openWindow (win2 : Bool) (s : State) : (Word × Word) × State :=
  regionWindow (.regionRxWindow (winSlot win2) s.r.chDatarate) s

/-- The Region's word on the configuration, asked for with the Radio in standby. -/
def openConfig (win2 : Bool) (s : State) : Bool × State :=
  regionRxConfig (winSlot win2) s.r.chDatarate none ((openWindow win2 s).2.log .radioStandby)

theorem openConfig_state (win2 : Bool) (s : State) :
    (openConfig win2 s).2 = { s with
      trace := s.trace ++ [.regionRxWindow (winSlot win2) s.r.chDatarate, .radioStandby,
        .regionRxConfig (winSlot win2) s.r.chDatarate none]
      script := (openConfig win2 s).2.script } := by
  have htrace : (openConfig win2 s).2.trace = s.trace ++ [.regionRxWindow (winSlot win2) s.r.chDatarate, .radioStandby,
      .regionRxConfig (winSlot win2) s.r.chDatarate none] := by
    simp [openConfig, openWindow, regionRxConfig_trace, regionWindow_trace]
  have hasked : CallsOnly s ((openWindow win2 s).2.log .radioStandby) := (regionWindow_frame _ s).trans rfl
  rw [← htrace]
  exact (hasked.trans (regionRxConfig_frame _ _ _ _)).symm

/-- The questions leave the registers alone, so the class that is read after them is the one before. -/
theorem execRxwOpen_eq (win2 : Bool) (s : State) :
    execRxwOpen win2 s =
      if (openConfig win2 s).1 = true then
        done [] (((openConfig win2 s).2.setSlot (winSlot win2)).log (.radioReceive
          (if win2 = true ∧ s.r.deviceClass = .c then 0 else (openWindow win2 s).1.2)))
      else raise .errParam (openConfig win2 s).2 := by
  have hr : (openConfig win2 s).2.r = s.r := by rw [openConfig_state]
  rw [← hr]
  simp only [execRxwOpen, regionWindow_r]
  rw [← openWindow, ← openConfig]
  generalize openConfig win2 s = config
  obtain ⟨accepted, asked⟩ := config
  cases accepted <;> rfl

theorem rxwOpen_refused {win2 : Bool} {s : State} (h : (openConfig win2 s).1 = false) :
    exec (.rxwOpen win2) s = .next (failedWith .errParam (openConfig win2 s).2) := by
  rw [exec_rxwOpen, execRxwOpen_eq, if_neg (by simp [h]), raise_eq_failedWith]

theorem rxwOpen_accepted {win2 : Bool} {s : State} (h : (openConfig win2 s).1 = true) :
    exec (.rxwOpen win2) s = .next (answeredOk [] (((openConfig win2 s).2.setSlot (winSlot win2)).log (.radioReceive
      (if win2 = true ∧ s.r.deviceClass = .c then 0 else (openWindow win2 s).1.2)))) := by
  rw [exec_rxwOpen, execRxwOpen_eq, if_pos h, done_eq_answeredOk]

/-! ### `RXW.RX_DONE` (R203) -/

theorem rxwRxDone_refused (outcome : BitVec 2) {s : State}
    (h1 : s.r.rxSlot ≠ .win1) (h2 : s.r.rxSlot ≠ .win2) (hc : s.r.rxSlot ≠ .classC) :
    exec (.rxwRxDone outcome) s = .next (failedWith .errParam s) := by
  rw [exec_rxwRxDone, execRxwRxDone, if_pos ⟨h1, h2, hc⟩, raise_eq_failedWith]

/-- A window that closes answers its slot; a frame accepted in RX1 disarms `T.RX2`. -/
theorem rxwRxDone_eq (outcome : BitVec 2) {s : State}
    (h : s.r.rxSlot = .win1 ∨ s.r.rxSlot = .win2 ∨ s.r.rxSlot = .classC) :
    exec (.rxwRxDone outcome) s = .next (answeredOk [(slotCode s.r.rxSlot).setWidth 8] (restOrListen { s with
      t := if outcome = 0 ∧ s.r.rxSlot = .win1 then { s.t with rx2 := { s.t.rx2 with armed := false } }
        else s.t })) := by
  have hopen : ¬ (s.r.rxSlot ≠ .win1 ∧ s.r.rxSlot ≠ .win2 ∧ s.r.rxSlot ≠ .classC) :=
    fun ⟨h1, h2, hc⟩ => h.elim h1 fun h => h.elim h2 hc
  rw [exec_rxwRxDone, execRxwRxDone, if_neg hopen, done_eq_answeredOk]
  rfl

/-! ### The obligations -/

/-- Settles O44: the answer and the timers of `rxwTxDone_eq`, over the state after the two questions, and the end of
the exchange. -/
theorem rxWindowsArmed : Obligations.RxWindowsArmed := by
  intro now confirmed s r1 r2 t1 t2
  refine ⟨_, rxwTxDone_eq now confirmed s, ?_⟩
  rw [restOrListen_state, armRx_eq, rx2Asked_state]
  rfl

/-- Settles O45: the Region refuses the configuration or accepts it; no window of these commands is open, or one of
the three closes. -/
theorem rxWindowsOpenAndClose : Obligations.RxWindowsOpenAndClose := by
  intro win2 outcome s slot w c calls
  refine ⟨fun hrefused => ?refused, fun haccepted => ?accepted, rxwRxDone_refused outcome, fun hopen => ?closed⟩
  case refused =>
    rw [rxwOpen_refused hrefused, openConfig_state]
    rfl
  case accepted =>
    rw [rxwOpen_accepted haccepted, openConfig_state]
    rfl
  case closed =>
    refine ⟨_, rxwRxDone_eq outcome hopen, ?_⟩
    rw [restOrListen_state]
    rfl

end Sys2Proof.Proofs.RxWindows
end

section
/-! Two system commands of 46_system.md: what `MIB.SET` writes, row by row of the table of settable registers, and what
`MC.ADD` and `MC.REMOVE` do with an entry of the multicast file, then the obligations of the family. -/

namespace Sys2Proof.Proofs.SystemCommands

open Sys2Proof Sys2Proof.Machine
open Sys2Proof.Proofs.FrameCodec (raise_eq_failedWith done_eq_answeredOk)
open Sys2Proof.Proofs.Counters (clearValid_mcStream)
open Sys2Proof.Proofs.DutyCycleAdr (eq_of_callsOnly)

/-! ### Which function each command runs -/

theorem exec_mibSet (id : Byte) (v : Word) (s : State) : exec (.mibSet id v) s = execMibSet id v s := rfl

theorem exec_mcAdd (h : BitVec 2) (addr freq : Word) (dr : Byte) (per : BitVec 3) (now : Word) (s : State) :
    exec (.mcAdd h addr freq dr per now) s = execMcAdd h addr freq dr per now s := rfl

theorem exec_mcRemove (h : BitVec 2) (now : Word) (s : State) :
    exec (.mcRemove h now) s = execMcRemove h now s := rfl

/-! ### The table of settable registers (R252) -/

/-- The identifiers of the table, whatever the registers and the value. -/
def settableIds : List Nat :=
  [0x00, 0x02, 0x03, 0x04, 0x05, 0x10, 0x11, 0x12, 0x13, 0x14, 0x15, 0x16, 0x17, 0x18,
   0x20, 0x21, 0x22, 0x23, 0x24, 0x25, 0x26, 0x27, 0x30]

theorem settableRegisters_ids (r : Regs) (v : Word) : (settableRegisters r v).map Prod.fst = settableIds := rfl

/-- An identifier of the table fits the one byte of the operand. -/
theorem toNat_ofNat_of_settable {r : Regs} {v : Word} {row : Nat × Bool × Regs} (h : row ∈ settableRegisters r v) :
    (BitVec.ofNat 8 row.1).toNat = row.1 := by
  have hid : row.1 ∈ settableIds := settableRegisters_ids r v ▸ List.mem_map_of_mem h
  have hfits : ∀ id ∈ settableIds, (BitVec.ofNat 8 id).toNat = id := by decide
  exact hfits _ hid

/-- What a row of the table does with its value: the registers it names if the value is legal, else nothing. -/
def written (legal : Bool) (r : Regs) : Option Regs := if legal = true then some r else none

/-- A register of one bit is written when the value is 0 or 1. -/
theorem oneBit_map (v : Word) (f : Bool → Regs) :
    (oneBit v).map f = written (decide (v.toNat ≤ 1)) (f (v == 1)) := by
  by_cases h0 : v = 0
  · subst h0; rfl
  by_cases h1 : v = 1
  · subst h1; rfl
  have habove : ¬ v.toNat ≤ 1 := by bv_omega
  rw [oneBit, if_neg h0, if_neg h1, written, if_neg (by simpa using habove), Option.map_none]

/-- A register with a range is written when the value is in it. -/
theorem ite_some_none (p : Prop) [Decidable p] (r : Regs) : (if p then some r else none) = written (decide p) r := by
  simp [written]

/-- Each row of the table says what the block writes: three registers of one bit, seven with a range, and the others,
which take every value. -/
theorem writeRegister_settable (r : Regs) (v : Word) :
    ∀ row ∈ settableRegisters r v, writeRegister r row.1 v = written row.2.1 row.2.2 := by
  have hvariant := oneBit_map v fun x => { r with lwVariant := if x then .v11 else .v10 }
  simp only [beq_iff_eq] at hvariant
  simp only [settableRegisters, List.forall_mem_append, List.forall_mem_cons, List.not_mem_nil, false_implies,
    implies_true, and_true]
  exact ⟨⟨hvariant, oneBit_map v _, ite_some_none _ _, rfl, oneBit_map v _, rfl, rfl, rfl, rfl, ite_some_none _ _,
    ite_some_none _ _, ite_some_none _ _, ite_some_none _ _, ite_some_none _ _⟩,
    ⟨rfl, rfl, rfl, rfl, rfl, rfl, rfl, ite_some_none _ _, rfl⟩⟩

/-- The block writes no register but those of the table. -/
theorem writeRegister_eq_none {r : Regs} {id : Nat} {v : Word} (h : id ∉ (settableRegisters r v).map Prod.fst) :
    writeRegister r id v = none := by
  rw [settableRegisters_ids] at h
  unfold writeRegister
  split
  -- the arm of every other identifier
  case h_24 => rfl
  all_goals exact absurd (by decide) h

/-- The Region is asked about the registers of `regionKinds` and about no other. -/
theorem validatedKind_eq_some_iff {id : Nat} {kind : ParamKind} :
    validatedKind id = some kind ↔ (id, kind) ∈ regionKinds := by
  unfold validatedKind
  split <;> simp_all [regionKinds, eq_comm]

/-! ### `MIB.SET` (R252) -/

theorem regionValidate_trace (kind : ParamKind) (v : Byte) (s : State) :
    (regionValidate kind v s).2.trace = s.trace ++ [.regionValidate kind v] := by
  unfold regionValidate; dsimp only; split <;> rfl

theorem regionValidate_state (kind : ParamKind) (v : Byte) (s : State) :
    (regionValidate kind v s).2 =
      { s with trace := s.trace ++ [.regionValidate kind v], script := (regionValidate kind v s).2.script } :=
  eq_of_callsOnly (regionValidate_frame kind v s) (regionValidate_trace kind v s)

theorem mibSet_refused {id : Byte} {v : Word} {s : State} (h : writeRegister s.r id.toNat v = none) :
    exec (.mibSet id v) s = .next (failedWith .errParam s) := by
  simp only [exec_mibSet, execMibSet, h, raise_eq_failedWith]

theorem mibSet_unasked {id : Byte} {v : Word} {s : State} {r : Regs} (h : writeRegister s.r id.toNat v = some r)
    (hkind : validatedKind id.toNat = none) :
    exec (.mibSet id v) s = .next { answeredOk [] s with r := r } := by
  simp only [exec_mibSet, execMibSet, h, hkind, done_eq_answeredOk]
  rfl

/-- The question is asked whatever the answer, so its call stays in the trace of a refusal too. -/
theorem mibSet_asked {id : Byte} {v : Word} {s : State} {r : Regs} {kind : ParamKind}
    (h : writeRegister s.r id.toNat v = some r) (hkind : validatedKind id.toNat = some kind) :
    exec (.mibSet id v) s = .next
      { (if (regionValidate kind (v.setWidth 8) s).1 = true then { answeredOk [] s with r := r }
          else failedWith .errParam s) with
        trace := s.trace ++ [.regionValidate kind (v.setWidth 8)]
        script := (regionValidate kind (v.setWidth 8) s).2.script } := by
  have hstate := regionValidate_state kind (v.setWidth 8) s
  simp only [exec_mibSet, execMibSet, h, hkind, raise_eq_failedWith, done_eq_answeredOk]
  generalize regionValidate kind (v.setWidth 8) s = answer at hstate ⊢
  obtain ⟨accepted, asked⟩ := answer
  dsimp only at hstate ⊢
  rw [hstate]
  cases accepted <;> rfl

/-! ### The entries of the multicast file (R256, R257) -/

/-- Of two writes to one entry the later stays. -/
@[simp] theorem set4_set4_same {α : Type} (v : Vector α 4) (h : BitVec 2) (x y : α) :
    set4 (set4 v h x) h y = set4 v h y := by
  simp [set4]

theorem clearMcStream_eq (r : Regs) (h : BitVec 2) :
    clearMcStream r h = { r with
      mcFcntDown := set4 r.mcFcntDown h 0, fcntValid := r.fcntValid &&& ~~~(1#6 <<< (2 + h.toNat)) } := by
  rw [clearMcStream, clearValid_mcStream]

/-- Entry `h` holds `e`, and its stream has accepted nothing. -/
def putEntry (h : BitVec 2) (e : McEntry) (s : State) : State :=
  { s with mc := set4 s.mc h e, r := clearMcStream s.r h }

theorem mcAdd_used {h : BitVec 2} {s : State} (addr freq : Word) (dr : Byte) (per : BitVec 3) (now : Word)
    (hused : (at4 s.mc h).valid = true) :
    exec (.mcAdd h addr freq dr per now) s = .next (failedWith .errParam s) := by
  rw [exec_mcAdd, execMcAdd, if_pos hused, raise_eq_failedWith]

/-- A free entry is written; with a beacon received it has its offset at once, and in the tracker's idle state the
multicast timer is armed again. -/
theorem mcAdd_free {h : BitVec 2} {s : State} (addr freq : Word) (dr : Byte) (per : BitVec 3) (now : Word)
    (hfree : (at4 s.mc h).valid = false) :
    let e := newEntry addr freq dr per
    let placed := putEntry h { e with offset := pingOffset s.par s.b.timeS addr e.pingPeriod } s
    exec (.mcAdd h addr freq dr per now) s = .next (answeredOk []
      (if s.b.run = true ∧ s.b.lastRxValid = true then (if s.b.state = .idle then armMc now placed else placed)
       else putEntry h e s)) := by
  intro e placed
  rw [exec_mcAdd, execMcAdd, if_neg (by simp [hfree])]
  simp only [set4_set4_same, done_eq_answeredOk]
  split <;> rfl

theorem mcRemove_free {h : BitVec 2} {s : State} (now : Word) (hfree : (at4 s.mc h).valid = false) :
    exec (.mcRemove h now) s = .next (failedWith .errParam s) := by
  rw [exec_mcRemove, execMcRemove, if_pos hfree, raise_eq_failedWith]

/-- An entry in use is freed; the multicast timer is armed again where it was armed for this entry. -/
theorem mcRemove_used {h : BitVec 2} {s : State} (now : Word) (hused : (at4 s.mc h).valid = true) :
    exec (.mcRemove h now) s = .next (answeredOk []
      (if s.t.mcslot.armed = true ∧ s.r.mcslotOwner = h then armMc now (putEntry h .reset s)
       else putEntry h .reset s)) := by
  rw [exec_mcRemove, execMcRemove, if_neg (by simp [hused]), done_eq_answeredOk]
  rfl

/-! ### The obligations -/

/-- Settles O56: a register outside the table is not written, and a row of the table decides the others
(`writeRegister_settable`); where the Region has its word, the question is the only thing more. -/
theorem mibSet : Obligations.MibSet := by
  intro v s
  refine ⟨fun id hid => mibSet_refused (writeRegister_eq_none hid), fun id legal r hrow => ?_⟩
  have hid : (BitVec.ofNat 8 id).toNat = id := toNat_ofNat_of_settable hrow
  have hwrite : writeRegister s.r (BitVec.ofNat 8 id).toNat v = written legal r := by
    rw [hid]
    exact writeRegister_settable s.r v _ hrow
  refine ⟨?illegal, ?unasked, ?asked⟩
  case illegal =>
    rintro rfl
    exact mibSet_refused hwrite
  case unasked =>
    rintro rfl hnone
    refine mibSet_unasked hwrite (Option.eq_none_iff_forall_ne_some.2 fun kind hkind => hnone kind ?_)
    rwa [hid, validatedKind_eq_some_iff] at hkind
  case asked =>
    rintro rfl kind hkind
    refine mibSet_asked hwrite ?_
    rwa [hid, validatedKind_eq_some_iff]

/-- Settles O59: one rule for a free entry and one for an entry in use, of each command; `clearMcStream_eq` names the
counter and the bit that are cleared. -/
theorem multicastEntries : Obligations.MulticastEntries := by
  intro h addr freq dr per now s add remove cleared period e placed freed
  have hcleared : clearMcStream s.r h = cleared := clearMcStream_eq s.r h
  refine ⟨mcAdd_used addr freq dr per now, fun hfree => ?added, mcRemove_free now, fun hused => ?removed⟩
  case added =>
    have hadd := mcAdd_free addr freq dr per now hfree
    simp only [putEntry, hcleared] at hadd
    exact hadd
  case removed =>
    have hremove := mcRemove_used now hused
    simp only [putEntry, hcleared] at hremove
    exact hremove

end Sys2Proof.Proofs.SystemCommands
end

section
/-! The failures of a command (60_exceptions.md): no partial commit (R285), and `ERR_ILLEGAL_CMD` (R284). One predicate,
`Answers`, says how a command may end; it has a rule for each construct the commands are built from, and the proof for a
command follows the command's own text. -/

namespace Sys2Proof.Proofs.Exceptions

open Sys2Proof Sys2Proof.Machine
open Sys2Proof.Proofs.FrameCodec (raise_eq_failedWith)

/-! ### The calls made before a command ends -/

/-- From `s` to `s'` nothing but calls on collaborators has been made, and key slots are written only if `keys`. -/
structure MadeCalls (keys : Bool) (s s' : State) : Prop where
  frame : SeOnly s s'
  trace : s.trace <+: s'.trace
  slots : keys = false → s'.se = s.se

namespace MadeCalls

variable {keys : Bool} {s s1 s2 : State}

theorem refl (s : State) : MadeCalls keys s s := ⟨.refl s, ⟨[], List.append_nil _⟩, fun _ => rfl⟩

theorem trans (h1 : MadeCalls keys s s1) (h2 : MadeCalls keys s1 s2) : MadeCalls keys s s2 :=
  ⟨h1.frame.trans h2.frame, h1.trace.trans h2.trace, fun hk => (h2.slots hk).trans (h1.slots hk)⟩

/-- A call that leaves the key slots, with the call it adds to the trace. -/
theorem of_callsOnly {c : Call} (h : CallsOnly s s1) (htrace : s1.trace = s.trace ++ [c]) : MadeCalls keys s s1 :=
  ⟨h.seOnly, ⟨[c], htrace.symm⟩, fun _ => by rw [← h]⟩

theorem of_log (s : State) (c : Call) : MadeCalls keys s (s.log c) := of_callsOnly rfl rfl

theorem of_regionValidate (kind : ParamKind) (v : Byte) (s : State) : MadeCalls keys s (regionValidate kind v s).2 :=
  of_callsOnly (regionValidate_frame kind v s) (SystemCommands.regionValidate_trace kind v s)

theorem of_regionNextChannel (now : Word) (dr : Byte) (joined : Bool) (wait : Word) (s : State) :
    MadeCalls keys s (regionNextChannel now dr joined wait s).2 :=
  of_callsOnly (regionNextChannel_frame now dr joined wait s)
    (DutyCycleAdr.regionNextChannel_trace now dr joined wait s)

theorem of_openConfig (win2 : Bool) (s : State) : MadeCalls keys s (RxWindows.openConfig win2 s).2 :=
  have hwindow : MadeCalls keys s (RxWindows.openWindow win2 s).2 :=
    of_callsOnly (regionWindow_frame _ s) (RxWindows.regionWindow_trace _ s)
  (hwindow.trans (of_log _ _)).trans
    (of_callsOnly (regionRxConfig_frame _ _ _ _) (RxWindows.regionRxConfig_trace _ _ _ _))

theorem of_seEcb (block : List Byte) (slot : KeySlot) (s : State) : MadeCalls keys s (seEcb block slot s).2 := by
  refine of_callsOnly (c := .seEcb block slot) (seEcb_frame block slot s) ?_
  rw [← seCall_trace]
  unfold seEcb
  split <;> simp_all

theorem of_seCmac (pre : Option (List Byte)) (data : List Byte) (slot : KeySlot) (s : State) :
    MadeCalls keys s (seCmac pre data slot s).2 := by
  refine of_callsOnly (c := .seCmac pre data slot) (seCmac_frame pre data slot s) ?_
  rw [← seCall_trace]
  unfold seCmac
  split <;> simp_all

theorem of_seDeriveStore (block : List Byte) (root target : KeySlot) (s : State) :
    MadeCalls true s (seDeriveStore block root target s).2 := by
  refine ⟨seDeriveStore_frame block root target s, ⟨[.seDeriveStore block root target], ?_⟩, nofun⟩
  rw [← seCall_trace]
  unfold seDeriveStore
  split
  · simp_all
  · split <;> simp_all

/-! ### Sequences of calls on the Secure Element -/

theorem seThen {α β : Type} {r : Option α × State} {k : α → State → Option β × State}
    (hr : MadeCalls keys s r.2) (hk : ∀ a s1, MadeCalls keys s1 (k a s1).2) :
    MadeCalls keys s (Machine.seThen r k).2 := by
  unfold Machine.seThen
  split
  · exact hr
  · exact hr.trans (hk _ _)

theorem of_keystream (slot : KeySlot) (down : Bool) (addr fcnt : Word) (n i : Nat) (s : State) :
    MadeCalls keys s (keystream slot down addr fcnt n i s).2 := by
  induction n generalizing i s with
  | zero => exact refl s
  | succ n ih => exact seThen (of_seEcb _ _ _) fun _ s => seThen (ih _ s) fun _ s => refl s

theorem of_payloadCrypt (slot : KeySlot) (down : Bool) (addr fcnt : Word) (x : List Byte) (s : State) :
    MadeCalls keys s (payloadCrypt slot down addr fcnt x s).2 :=
  seThen (of_keystream _ _ _ _ _ _ _) fun _ s => refl s

theorem of_foptsMaybeCrypt (crypt down : Bool) (addr fcnt : Word) (f : List Byte) (s : State) :
    MadeCalls keys s (foptsMaybeCrypt crypt down addr fcnt f s).2 := by
  unfold foptsMaybeCrypt
  split
  · exact seThen (of_seEcb _ _ _) fun _ s => refl s
  · exact refl s

theorem of_uplinkMic (v : Variant) (addr fcnt : Word) (msg : List Byte) (conf : Half) (dr ch : Byte) (s : State) :
    MadeCalls keys s (uplinkMic v addr fcnt msg conf dr ch s).2 := by
  cases v with
  | v10 => exact of_seCmac _ _ _ _
  | v11 => exact seThen (of_seCmac _ _ _ _) fun _ s => seThen (of_seCmac _ _ _ _) fun _ s => refl s

theorem of_joinacceptMic (v : Variant) (q : Byte) (e : Eui) (n : Half) (body : List Byte) (s : State) :
    MadeCalls keys s (joinacceptMic v q e n body s).2 := by
  cases v with
  | v10 => exact of_seCmac _ _ _ _
  | v11 => exact of_seCmac _ _ _ _

theorem of_deriveAll (l : List (List Byte × KeySlot × KeySlot)) (s : State) : MadeCalls true s (deriveAll l s).2 := by
  induction l generalizing s with
  | nil => exact refl s
  | cons step l ih => exact seThen (of_seDeriveStore _ _ _ s) fun _ s => ih s

end MadeCalls

/-! ### How a command may end -/

/-- What R284 and R285 say of the outcome `o` of a command that began in `s`: it never answers `ERR_ILLEGAL_CMD`, and if
it fails it has made calls and written an answer. -/
structure Answers (keys : Bool) (s : State) (o : Out) : Prop where
  legal : ∀ t, o = .next t → t.status ≠ .errIllegalCmd
  failed : ∀ t, o = .next t → t.status.completed = false → ∃ s' st res, MadeCalls keys s s' ∧ t = s'.reply st res

namespace Answers

variable {keys : Bool} {s : State} {o o' : Out}

/-- A command that answers at once. -/
theorem of_reply {st : Status} {res : List Byte} (hst : st ≠ .errIllegalCmd := by decide) :
    Answers keys s (.next (s.reply st res)) where
  legal := by rintro _ ⟨⟩; exact hst
  failed := by rintro _ ⟨⟩ _; exact ⟨s, st, res, .refl s, rfl⟩

theorem of_raise {st : Status} (hst : st ≠ .errIllegalCmd := by decide) : Answers keys s (raise st s) := of_reply hst

/-- A command that completes may have written anything. -/
theorem of_completed {s' : State} {st : Status} {res : List Byte} (hst : st.completed = true) :
    Answers keys s (.next (s'.reply st res)) where
  legal := by rintro _ ⟨⟩ h; rw [show st = _ from h] at hst; cases hst
  failed := by rintro _ ⟨⟩ hfail; exact absurd (hst.symm.trans hfail) nofun

theorem of_done {s' : State} {res : List Byte} : Answers keys s (done res s') := of_completed rfl

theorem of_fault {f : Fault} : Answers keys s (.fault f) where
  legal _ h := by cases h
  failed _ h := by cases h

theorem ite {p : Prop} {_ : Decidable p} (h : Answers keys s o) (h' : Answers keys s o') :
    Answers keys s (if p then o else o') := by
  split
  · exact h
  · exact h'

/-- What follows calls may be looked at from the state they leave. -/
theorem after {s' : State} (hcalls : MadeCalls keys s s') (h : Answers keys s' o) : Answers keys s o := by
  refine ⟨h.legal, fun t ht hfail => ?_⟩
  obtain ⟨s'', st, res, hmore, heq⟩ := h.failed t ht hfail
  exact ⟨s'', st, res, hcalls.trans hmore, heq⟩

theorem orFault {α : Type} {a : Option α} {k : α → Out} (hk : ∀ x, Answers keys s (k x)) :
    Answers keys s (Machine.orFault a k) := by
  obtain ⟨_, h⟩ | ⟨x, _, h⟩ := orFault_cases a k
  · exact h ▸ of_fault
  · exact h ▸ hk x

theorem orSeFailed {α : Type} {r : Option α × State} {k : α → State → Out} (hr : MadeCalls keys s r.2)
    (hk : ∀ x s', Answers keys s' (k x s')) : Answers keys s (Machine.orSeFailed r k) := by
  refine after hr ?_
  obtain ⟨_, h⟩ | ⟨x, _, h⟩ := orSeFailed_cases r k
  · exact h ▸ of_raise
  · exact h ▸ hk x r.2

theorem withDataFrame {k : List Byte → DataFrame → Out} (hk : ∀ b f, Answers keys s (k b f)) :
    Answers keys s (Machine.withDataFrame s k) := by
  obtain h | h | ⟨b, _, _, _, h⟩ := withDataFrame_cases s k
  · exact h ▸ of_raise
  · exact h ▸ of_fault
  · exact h ▸ hk b _

/-! ### The system commands -/

theorem mibGet (id : Byte) (s : State) : Answers keys s (execMibGet id s) := by
  unfold execMibGet
  split
  case h_1 => exact of_raise
  case h_2 => exact of_done

theorem mibSet (id : Byte) (v : Word) (s : State) : Answers keys s (execMibSet id v s) := by
  unfold execMibSet
  split
  case h_1 => exact of_raise
  case h_2 r _ =>
    split
    case h_1 => exact of_done
    case h_2 kind _ =>
      refine after (.of_regionValidate kind (v.setWidth 8) s) ?_
      split
      case h_1 asked heq => exact heq ▸ of_raise
      case h_2 => exact of_done

theorem sysSetClass (cls : BitVec 2) (now : Word) (s : State) : Answers keys s (execSysSetClass cls now s) := by
  unfold execSysSetClass
  split
  case h_1 => exact of_raise
  case h_2 target _ =>
    cases s.r.deviceClass <;> cases target
    case a.b | a.c => exact ite of_raise of_done
    case b.c | c.b => exact of_raise
    all_goals exact of_done

/-! ### The frame codec -/

theorem serialize (cap : Byte) (msg : List Byte) (s : State) : Answers keys s (Machine.serialize cap msg s) :=
  ite of_raise of_done

theorem serRejoin (cap : Byte) (s : State) : Answers keys s (execSerRejoin cap s) :=
  ite of_raise (ite (serialize ..) (ite (serialize ..) of_raise))

theorem serJoinacc (cap : Byte) (s : State) : Answers keys s (execSerJoinacc cap s) :=
  ite of_raise (ite of_raise (ite (serialize ..) (serialize ..)))

theorem serData (cap : Byte) (s : State) : Answers keys s (execSerData cap s) :=
  ite of_raise (ite of_raise (ite of_raise (orFault fun _ => serialize ..)))

theorem parseRejoin (s : State) : Answers keys s (execParseRejoin s) :=
  ite of_raise (orFault fun _ => ite (orFault fun _ => of_done) (ite (orFault fun _ => of_done) of_raise))

theorem frameMatchAddr (s : State) : Answers keys s (execFrameMatchAddr s) := by
  unfold execFrameMatchAddr
  split
  case h_1 => exact ite of_raise of_done
  case h_2 => exact ite of_done of_raise

theorem framePlaceCmds (cmds : List Byte) (maxPld : Byte) (s : State) :
    Answers keys s (execFramePlaceCmds cmds maxPld s) :=
  ite of_done (ite of_done (ite of_raise (of_completed (by split <;> rfl))))

/-! ### The security engine -/

theorem secUplink (counter : Word) (dr ch cap : Byte) (s : State) :
    Answers keys s (execSecUplink counter dr ch cap s) :=
  ite of_raise (ite of_raise (ite of_raise (ite of_raise (ite of_raise (orFault fun _ =>
    orSeFailed (.of_payloadCrypt ..) fun _ _ => orSeFailed (.of_foptsMaybeCrypt ..) fun _ _ =>
    orSeFailed (.of_uplinkMic ..) fun _ _ => of_done)))))

theorem secDownlink (addrKind : BitVec 3) (address : Word) (counterKind : BitVec 3) (cand : Word) (s : State) :
    Answers keys s (execSecDownlink addrKind address counterKind cand s) :=
  ite of_raise (ite of_raise (withDataFrame fun _ _ =>
    ite of_raise (ite of_raise (ite of_raise (ite of_raise (orSeFailed (.of_seCmac ..) fun _ _ => ite of_raise
      (orSeFailed (.of_payloadCrypt ..) fun _ _ => orSeFailed (.of_foptsMaybeCrypt ..) fun _ _ => of_done)))))))

theorem secJoinreq (cap : Byte) (s : State) : Answers keys s (execSecJoinreq cap s) :=
  ite of_raise (ite of_raise (orSeFailed (.of_seCmac ..) fun _ _ => of_done))

theorem secRejoin (cap : Byte) (s : State) : Answers keys s (execSecRejoin cap s) :=
  ite of_raise (ite of_raise (ite (ite of_raise (orSeFailed (.of_seCmac ..) fun _ _ => of_done))
    (ite of_raise (ite of_raise (orSeFailed (.of_seCmac ..) fun _ _ => of_done)))))

theorem decryptBlocks {k : List Byte → State → Out} (hk : ∀ pl s, Answers keys s (k pl s)) (slot : KeySlot)
    (n i : Nat) (pl : List Byte) (s : State) : Answers keys s (Machine.decryptBlocks slot n i pl s k) := by
  induction n generalizing i pl s with
  | zero => exact hk pl s
  | succ n ih => exact orFault fun _ => orSeFailed (.of_seEcb ..) fun _ s => ih _ _ s

theorem secJoinacc (reqType : Byte) (joinEui : Eui) (devNonce : Half) (s : State) :
    Answers true s (execSecJoinacc reqType joinEui devNonce s) :=
  ite of_raise (ite of_raise (ite of_raise (orFault fun _ => decryptBlocks (fun _ _ =>
    orSeFailed (.of_joinacceptMic ..) fun _ _ => ite of_raise
      (orSeFailed (.of_deriveAll ..) fun _ _ => of_done)) ..)))

/-- A command that is a sequence of derivations. -/
theorem derives (l : List (List Byte × KeySlot × KeySlot)) (s : State) :
    Answers true s (Machine.orSeFailed (deriveAll l s) fun _ s => done [] s) :=
  orSeFailed (.of_deriveAll l s) fun _ _ => of_done

/-! ### Counters, duty cycle and receive windows -/

theorem fcntReconstruct (k : BitVec 3) (wire : Half) (s : State) : Answers keys s (execFcntReconstruct k wire s) :=
  ite of_raise (ite of_raise (ite of_done (ite of_raise (ite of_raise (ite of_raise of_done)))))

theorem dcSchedule (now : Word) (allow : Bool) (s : State) : Answers keys s (execDcSchedule now allow s) := by
  refine after (.of_regionNextChannel now s.r.chDatarate s.r.joined (aggWait s.r now) s) ?_
  unfold execDcSchedule
  dsimp only
  split
  case h_1 asked heq => exact heq ▸ of_raise
  case h_2 asked heq =>
    rw [heq]
    exact ite of_done (ite of_done of_reply)

theorem rxwOpen (win2 : Bool) (s : State) : Answers keys s (execRxwOpen win2 s) := by
  rw [RxWindows.execRxwOpen_eq]
  exact ite of_done (after (.of_openConfig win2 s) of_raise)

/-! ### Every command -/

theorem exec (i : Instr) (s : State) (hport : portOf i = .command) : Answers (derivesKeys i) s (Machine.exec i s) := by
  cases i with
  | sysInit => exact of_done
  | mibGet => exact mibGet ..
  | mibSet => exact mibSet ..
  | sysSetClass => exact sysSetClass ..
  | evtDrain => exact of_done
  | mcAdd => exact ite of_raise (ite of_done of_done)
  | mcRemove => exact ite of_raise of_done
  | serJoinreq => exact ite of_raise (serialize ..)
  | serRejoin => exact serRejoin ..
  | serJoinacc => exact serJoinacc ..
  | serData => exact serData ..
  | parseJoinreq => exact ite of_raise (orFault fun _ => of_done)
  | parseRejoin => exact parseRejoin _
  | parseJoinacc => exact ite of_raise (orFault fun _ => of_done)
  | parseData => exact withDataFrame fun _ _ => of_done
  | frameClassify => exact ite of_raise (orFault fun _ => ite of_raise of_done)
  | frameMatchAddr => exact frameMatchAddr _
  | framePlaceCmds => exact framePlaceCmds ..
  | portCheck => exact ite of_done (ite of_done of_raise)
  | secUplink => exact secUplink ..
  | secDownlink => exact secDownlink ..
  | secJoinreq => exact secJoinreq ..
  | secRejoin => exact secRejoin ..
  | secJoinacc => exact secJoinacc ..
  | secDeriveSession => exact derives ..
  | secDeriveMc => exact derives ..
  | secDeriveLifetime => exact derives ..
  | fcntNextUp => exact ite of_raise of_done
  | fcntReconstruct => exact fcntReconstruct ..
  | fcntReset => exact ite of_done (ite of_done (ite of_done of_raise))
  | dcTxUpdate => exact ite of_raise of_done
  | dcSchedule => exact dcSchedule ..
  | adrNext => exact ite of_done of_done
  | adrUplinkEnd => exact ite of_done of_done
  | ackStart => exact of_done
  | ackTimeout => exact ite of_raise (ite (of_completed rfl) of_done)
  | ackReceived => exact ite of_raise of_done
  | rxwTxDone => exact of_done
  | rxwOpen => exact rxwOpen ..
  | rxwRxDone => exact ite of_raise of_done
  | bcnAcquire => exact ite of_raise (ite of_raise of_done)
  | bcnRxBeacon => exact ite of_raise of_done
  | bcnRxTimeout => exact ite of_raise (ite of_done of_done)
  | bcnTimer => exact ite of_raise (ite of_done (ite of_done of_raise))
  | bcnHalt => exact of_done
  | pingSetInfo => exact ite of_done of_done
  | pingTimer => exact ite of_raise (ite of_done of_done)
  | mcslotTimer => exact ite of_raise (ite of_done of_done)
  | slotRxDone => exact ite of_raise of_done
  | _ => cases hport

end Answers

/-- Settles O12: a failed command has made calls and answered, so its state is the one before but for these. -/
theorem failedCommandChangesNothing : Obligations.FailedCommandChangesNothing := by
  intro i s t hport hexec hfail
  obtain ⟨s', st, res, hcalls, rfl⟩ := (Answers.exec i s hport).failed t hexec hfail
  obtain ⟨calls, htrace⟩ := hcalls.trace
  refine ⟨?_, ⟨calls, htrace.symm⟩, hcalls.slots⟩
  rw [← hcalls.frame]
  rfl

/-! ### Which bytes are a command (30_encoding.md R61, R75) -/

/-- What the decoder reads where the code is one of the 49: a command, or operands it refuses. -/
def ReadsCommand (r : Except Reject Instr) : Prop :=
  r ≠ .error .illegalCommand ∧ ∀ i, r = .ok i → portOf i = .command

namespace ReadsCommand

theorem of_ok {i : Instr} (h : portOf i = .command) : ReadsCommand (.ok i) :=
  ⟨nofun, by rintro _ ⟨⟩; exact h⟩

theorem of_error {e : Reject} (h : e ≠ .illegalCommand) : ReadsCommand (.error e) :=
  ⟨by rintro ⟨⟩; exact h rfl, nofun⟩

theorem of_record {form : List Operand} {s : List Byte} {build : List Nat → Option Instr}
    (h : ∀ vs i, build vs = some i → portOf i = .command) : ReadsCommand (decodeRecord form s build) := by
  unfold decodeRecord
  split
  case h_1 => exact of_error nofun
  case h_2 vs _ =>
    split
    case h_1 i hi => exact of_ok (h vs i hi)
    case h_2 => exact of_error nofun

theorem of_placeCmds (s : List Byte) : ReadsCommand (decodePlaceCmds s) := by
  cases s with
  | nil => exact of_error nofun
  | cons c s =>
    unfold decodePlaceCmds
    dsimp only
    split
    · exact of_error nofun
    · exact of_ok rfl

theorem of_deriveMc (s : List Byte) : ReadsCommand (decodeDeriveMc s) := by
  cases s with
  | nil => exact of_error nofun
  | cons st s =>
    unfold decodeDeriveMc
    dsimp only
    split
    case h_1 | h_2 => exact of_ok rfl
    case h_3 | h_4 => exact of_record fun vs i hi => by (repeat' split at hi) <;> cases hi; rfl
    case h_5 => exact of_error nofun

end ReadsCommand

/-- A code of the table is read as a command, another code is none. The cases of `decodeOperands` stand in the order of
the table of R61. -/
theorem decodeOperands_cases (code : Nat) (s : List Byte) :
    (code ∈ commandCodes ∧ ReadsCommand (decodeOperands code s))
    ∨ (code ∉ commandCodes ∧ decodeOperands code s = .error .illegalCommand) := by
  unfold decodeOperands
  split
  case h_50 => exact .inr ⟨by simp_all [commandCodes], rfl⟩
  all_goals refine .inl ⟨by decide, ?_⟩
  -- the commands without operands
  case h_1 | h_5 | h_12 | h_13 | h_14 | h_15 | h_16 | h_17 | h_28 | h_33 | h_36 | h_37 | h_45 => exact .of_ok rfl
  -- the two whose record has no fixed form: `FRAME.PLACE_CMDS` and `SEC.DERIVE_MC`
  case h_18 => exact .of_placeCmds s
  case h_26 => exact .of_deriveMc s
  all_goals exact .of_record fun vs i hi => by (repeat' split at hi) <;> cases hi; rfl

theorem decodeOperands_illegal {code : Nat} (s : List Byte) (h : code ∉ commandCodes) :
    decodeOperands code s = .error .illegalCommand :=
  ((decodeOperands_cases code s).resolve_left fun hin => h hin.1).2

theorem decodeOperands_readsCommand {code : Nat} (s : List Byte) (h : code ∈ commandCodes) :
    ReadsCommand (decodeOperands code s) :=
  ((decodeOperands_cases code s).resolve_right fun hout => hout.1 h).2

/-- What the step makes of bytes at the command port. -/
def runDecoded (r : Except Reject Instr) (s : State) : Out :=
  match r with
  | .ok i => exec i s
  | .error e => answerReject e s

theorem step_command {s : State} {code : Byte} {ops : List Byte} {rest : List PortItem} (hpar : s.par.Ok)
    (hport : s.port = .bytes .command (code :: ops) :: rest) :
    step s = runDecoded (decodeOperands code.toNat ops) { s with port := rest } := by
  rw [step, if_neg (not_not.2 hpar), hport]
  rfl

/-- Operands that are refused have a status of their own. -/
theorem answerReject_status {e : Reject} {s t : State} (he : e ≠ .illegalCommand) (h : answerReject e s = .next t) :
    t.status ≠ .errIllegalCmd := by
  cases e with
  | illegalCommand => exact absurd rfl he
  | missingOperand | operandRange => exact (Answers.of_raise (keys := false)).legal t h
  | notALayout => cases h

theorem runDecoded_status {r : Except Reject Instr} {s t : State} (hr : ReadsCommand r) (h : runDecoded r s = .next t) :
    t.status ≠ .errIllegalCmd := by
  obtain ⟨hlegal, hport⟩ := hr
  cases r with
  | ok i => exact (Answers.exec i s (hport i rfl)).legal t h
  | error e => exact answerReject_status (fun he => hlegal (he ▸ rfl)) h

/-- Settles O2: the decoder knows the 49 codes, and no command answers the status itself. -/
theorem illegalCommandExactlyOutsideTable : Obligations.IllegalCommandExactlyOutsideTable := by
  intro s code ops rest hpar hport
  rw [step_command hpar hport]
  refine ⟨fun hout => ?_, fun hin t => runDecoded_status (decodeOperands_readsCommand ops hin)⟩
  rw [decodeOperands_illegal ops hout]
  exact raise_eq_failedWith .errIllegalCmd _

end Sys2Proof.Proofs.Exceptions
end

section
/-! The decoder and the encoder (30_encoding.md): byte strings as concatenations of fields, the wire layouts in both
directions, the operand records of the commands, and the obligations about them. -/

namespace Sys2Proof.Proofs.Codec

open Sys2Proof Sys2Proof.Machine
open Sys2Proof.Proofs.FrameCodec (raise_eq_failedWith)

/-! ### Fields of a byte string -/

theorem slice_append_slice (s : List Byte) (i n m : Nat) : slice s i n ++ slice s (i + n) m = slice s i (n + m) := by
  rw [slice, slice, slice, ← List.drop_drop, ← List.take_add]

theorem slice_whole {s : List Byte} {n : Nat} (h : s.length = n) : slice s 0 n = s := by
  subst h
  simp [slice]

/-- One byte of a string as a field of its own. -/
theorem singleton_byteAt {s : List Byte} {i : Nat} (h : i < s.length) : [byteAt s i] = slice s i 1 := by
  rw [byteAt, slice, List.getD_eq_getElem _ _ h, List.drop_eq_getElem_cons h, List.take_succ_cons, List.take_zero]

/-! Fields of a string that is known piece by piece: the reading walks to its piece. -/

theorem slice_cons {b : Byte} {s : List Byte} {i n : Nat} (h : 0 < i) : slice (b :: s) i n = slice s (i - 1) n := by
  obtain ⟨i, rfl⟩ := Nat.exists_eq_add_of_lt h
  simp [slice]

theorem slice_append_right {a s : List Byte} {i n : Nat} (h : a.length ≤ i) :
    slice (a ++ s) i n = slice s (i - a.length) n := by
  simp [slice, List.drop_append, List.drop_eq_nil_of_le h]

theorem slice_append_left (a s : List Byte) : slice (a ++ s) 0 a.length = a := by simp [slice]

/-- A byte and a field of a string that is known as a concatenation around them. -/
theorem byteAt_eq_of_append {s a c : List Byte} {v : Byte} {i : Nat} (h : s = a ++ v :: c) (hi : a.length = i) :
    byteAt s i = v := by
  subst h hi
  simp [byteAt]

theorem slice_eq_of_append {s a b c : List Byte} {i n : Nat} (h : s = a ++ (b ++ c)) (hi : a.length = i)
    (hn : b.length = n) : slice s i n = b := by
  subst h hi hn
  simp [slice]

theorem numAt_cons {b : Byte} {s : List Byte} {i n w : Nat} (h : 0 < i) :
    (numAt (b :: s) i n : BitVec w) = numAt s (i - 1) n := by
  rw [numAt, slice_cons h, numAt]

theorem numAt_append_right {a s : List Byte} {i n w : Nat} (h : a.length ≤ i) :
    (numAt (a ++ s) i n : BitVec w) = numAt s (i - a.length) n := by
  rw [numAt, slice_append_right h, numAt]

/-- A number of the field's width is read back from its little-endian form. -/
theorem ofNat_unLe_leBytes_of_width {n w : Nat} (hw : w = 8 * n) (v : BitVec w) :
    BitVec.ofNat w (unLe (leBytes n v.toNat)) = v := by
  subst hw
  exact ofNat_unLe_leBytes v

theorem numAt_leBytes {n w : Nat} (hw : w = 8 * n) (v : BitVec w) (s : List Byte) :
    numAt (leBytes n v.toNat ++ s) 0 n = v := by
  have hfield := slice_append_left (leBytes n v.toNat) s
  rw [leBytes_length] at hfield
  rw [numAt, hfield, ofNat_unLe_leBytes_of_width hw]

theorem numAt_le16 (v : Half) (s : List Byte) : numAt (le16 v ++ s) 0 2 = v := numAt_leBytes (n := 2) (w := 16) rfl v s

theorem numAt_le24 (v : Tri) (s : List Byte) : numAt (le24 v ++ s) 0 3 = v := numAt_leBytes (n := 3) (w := 24) rfl v s

theorem numAt_le32 (v : Word) (s : List Byte) : numAt (le32 v ++ s) 0 4 = v := numAt_leBytes (n := 4) (w := 32) rfl v s

theorem numAt_revEui (e : Eui) (s : List Byte) : numAt (revEui e ++ s) 0 8 = e :=
  numAt_leBytes (n := 8) (w := 64) rfl e s

/-- The trailer of a frame. -/
theorem numAt_le32_end (v : Word) : numAt (le32 v) 0 4 = v := by simpa using numAt_le32 v []

/-- A numeric field of a string has the string's bytes. -/
theorem leBytes_numAt {s : List Byte} {i n w : Nat} (h : i + n ≤ s.length) (hw : w = 8 * n) :
    leBytes n (numAt s i n : BitVec w).toNat = slice s i n := by
  have hlen : (slice s i n).length = n := FrameCodec.slice_length h
  have hlt : unLe (slice s i n) < 2 ^ w := by
    have := unLe_lt (slice s i n)
    rwa [hlen, show 256 = 2 ^ 8 from rfl, ← Nat.pow_mul, ← hw] at this
  have hbytes := leBytes_unLe (slice s i n)
  rw [hlen] at hbytes
  rw [numAt, BitVec.toNat_ofNat, Nat.mod_eq_of_lt hlt, hbytes]

/-! ### The wire layouts: what a string holds (R71, R72) -/

theorem joinRequest_bytes_ofBytes {s : List Byte} (h : s.length = 23) : (JoinRequest.ofBytes s).bytes = s := by
  simp only [JoinRequest.bytes, JoinRequest.body, JoinRequest.ofBytes, revEui, le16, le32]
  rw [singleton_byteAt (by omega), leBytes_numAt (by omega) rfl, leBytes_numAt (by omega) rfl,
    leBytes_numAt (by omega) rfl, leBytes_numAt (by omega) rfl, slice_append_slice s 0, slice_append_slice s 0,
    slice_append_slice s 0, slice_append_slice s 0, slice_whole h]

theorem rejoin02_bytes_ofBytes {s : List Byte} (h : s.length = 19) : (Rejoin02.ofBytes s).bytes = s := by
  simp only [Rejoin02.bytes, Rejoin02.body, Rejoin02.ofBytes, revEui, le16, le24, le32]
  rw [← List.singleton_append, singleton_byteAt (by omega), singleton_byteAt (by omega), leBytes_numAt (by omega) rfl,
    leBytes_numAt (by omega) rfl, leBytes_numAt (by omega) rfl, leBytes_numAt (by omega) rfl, slice_append_slice s 0,
    slice_append_slice s 0, slice_append_slice s 0, slice_append_slice s 0, slice_append_slice s 0, slice_whole h]

theorem rejoin1_bytes_ofBytes {s : List Byte} (h : s.length = 24) (htype : byteAt s 1 = 1) :
    (Rejoin1.ofBytes s).bytes = s := by
  simp only [Rejoin1.bytes, Rejoin1.body, Rejoin1.ofBytes, revEui, le16, le32]
  rw [← htype, ← List.singleton_append, singleton_byteAt (by omega), singleton_byteAt (by omega),
    leBytes_numAt (by omega) rfl, leBytes_numAt (by omega) rfl, leBytes_numAt (by omega) rfl,
    leBytes_numAt (by omega) rfl, slice_append_slice s 0, slice_append_slice s 0, slice_append_slice s 0,
    slice_append_slice s 0, slice_append_slice s 0, slice_whole h]

theorem joinAccept_bytes_ofBytes {s : List Byte} (h : s.length = 17 ∨ s.length = 33) :
    (JoinAccept.ofBytes s).bytes = s := by
  have hlist : (if s.length = 33 then some (slice s 13 16) else none).getD [] = slice s 13 (s.length - 17) := by
    rcases h with h | h <;> simp [h, slice]
  simp only [JoinAccept.bytes, JoinAccept.body, JoinAccept.ofBytes, le24, le32, hlist]
  rw [← List.singleton_append (l := [byteAt s 12]), singleton_byteAt (by omega), singleton_byteAt (by omega),
    singleton_byteAt (by omega), leBytes_numAt (by omega) rfl, leBytes_numAt (by omega) rfl,
    leBytes_numAt (by omega) rfl, leBytes_numAt (by omega) rfl, slice_append_slice s 0, slice_append_slice s 0,
    slice_append_slice s 0, slice_append_slice s 11, slice_append_slice s 0, slice_append_slice s 0,
    show s.length - 4 = 0 + (1 + 3 + 3 + 4 + (1 + 1) + (s.length - 17)) by omega, slice_append_slice s 0,
    slice_whole (by omega)]

/-- The port byte and the payload are what is left before the trailer. -/
theorem dataFrame_port_payload_ofBytes {s : List Byte} (h : 12 + foptsLen (byteAt s 5) ≤ s.length) :
    (DataFrame.ofBytes s).fport.toList ++ (DataFrame.ofBytes s).payload
      = slice s (8 + foptsLen (byteAt s 5)) (s.length - 12 - foptsLen (byteAt s 5)) := by
  simp only [DataFrame.ofBytes]
  generalize foptsLen (byteAt s 5) = n at h ⊢
  split
  case isTrue hrem => simp [hrem, slice]
  case isFalse hrem =>
    rw [Option.toList_some, singleton_byteAt (by omega), show 9 + n = 8 + n + 1 by omega, slice_append_slice,
      show 1 + (s.length - 12 - n - 1) = s.length - 12 - n by omega]

theorem dataFrame_bytes_ofBytes {s : List Byte} (h : 12 + foptsLen (byteAt s 5) ≤ s.length) :
    (DataFrame.ofBytes s).bytes = s := by
  have hrest := dataFrame_port_payload_ofBytes h
  rw [DataFrame.bytes, DataFrame.body, List.append_assoc _ _ (DataFrame.ofBytes s).payload, hrest]
  simp only [DataFrame.ofBytes, le16, le32]
  generalize foptsLen (byteAt s 5) = n at h ⊢
  rw [singleton_byteAt (by omega), singleton_byteAt (by omega), leBytes_numAt (by omega) rfl,
    leBytes_numAt (by omega) rfl, leBytes_numAt (by omega) rfl, show 8 + n = 0 + (1 + 4 + 1 + 2 + n) by omega,
    slice_append_slice s 0, slice_append_slice s 0, slice_append_slice s 0, slice_append_slice s 0,
    slice_append_slice s 0, show s.length - 4 = 0 + (1 + 4 + 1 + 2 + n + (s.length - 12 - n)) by omega,
    slice_append_slice s 0, slice_whole (by omega)]

/-! ### The wire layouts: a frame read from its own bytes -/

theorem joinRequest_ofBytes_bytes (f : JoinRequest) : JoinRequest.ofBytes f.bytes = f := by
  simp [JoinRequest.ofBytes, JoinRequest.bytes, JoinRequest.body, numAt_cons, numAt_append_right, numAt_revEui,
    numAt_le16, numAt_le32_end, byteAt]

theorem rejoin02_ofBytes_bytes (f : Rejoin02) : Rejoin02.ofBytes f.bytes = f := by
  simp [Rejoin02.ofBytes, Rejoin02.bytes, Rejoin02.body, numAt_cons, numAt_append_right, numAt_revEui, numAt_le24,
    numAt_le16, numAt_le32_end, byteAt]

theorem rejoin1_ofBytes_bytes (f : Rejoin1) : Rejoin1.ofBytes f.bytes = f := by
  simp [Rejoin1.ofBytes, Rejoin1.bytes, Rejoin1.body, numAt_cons, numAt_append_right, numAt_revEui,
    numAt_le16, numAt_le32_end, byteAt]

/-- The trailer of a join-accept, with its list or without. -/
theorem joinAccept_mic_bytes (f : JoinAccept) : numAt f.bytes (f.bytes.length - 4) 4 = f.mic := by
  rw [JoinAccept.bytes, numAt_append_right (by simp)]
  simp [numAt_le32_end]

theorem joinAccept_ofBytes_bytes {f : JoinAccept} (h : f.wellFormed = true) : JoinAccept.ofBytes f.bytes = f := by
  have hmic := joinAccept_mic_bytes f
  obtain ⟨mhdr, joinNonce, netId, devAddr, dlSettings, rxDelay, cflist, mic⟩ := f
  simp only [JoinAccept.ofBytes, hmic]
  cases cflist with
  | none =>
    simp [JoinAccept.bytes, JoinAccept.body, numAt_cons, numAt_append_right, numAt_le24, numAt_le32, byteAt]
  | some l =>
    have hl : l.length = 16 := by simpa [JoinAccept.wellFormed, cflistLen] using h
    have hslice := slice_append_left l (le32 mic)
    rw [hl] at hslice
    simp [JoinAccept.bytes, JoinAccept.body, numAt_cons, numAt_append_right, numAt_le24, numAt_le32, byteAt,
      slice_cons, slice_append_right, hl, hslice]

/-- What `DataFrame.wellFormed` says, as facts. -/
theorem dataFrame_wellFormed_iff {f : DataFrame} :
    f.wellFormed = true ↔ f.fopts.length = foptsLen f.fctrl ∧ (f.payload = [] ∨ f.fport.isSome = true)
      ∧ 12 + f.fopts.length + f.fport.toList.length + f.payload.length ≤ 255 := by
  simp [DataFrame.wellFormed, foptsLen, and_assoc]

/-- The trailer of a data frame. -/
theorem dataFrame_mic_bytes (f : DataFrame) : numAt f.bytes (f.bytes.length - 4) 4 = f.mic := by
  rw [DataFrame.bytes, numAt_append_right (by simp)]
  simp [numAt_le32_end]

/-- A data frame is its header of eight bytes, the options, and the rest. -/
theorem dataFrame_bytes_eq (f : DataFrame) :
    f.bytes = f.mhdr :: (le32 f.addr
      ++ f.fctrl :: (le16 f.fcnt ++ (f.fopts ++ (f.fport.toList ++ (f.payload ++ le32 f.mic))))) := by
  simp [DataFrame.bytes, DataFrame.body]

/-- The options length and the payload's presence are all that a data frame must have right to be read back. -/
theorem dataFrame_ofBytes_bytes {f : DataFrame} (hopts : f.fopts.length = foptsLen f.fctrl)
    (hport : f.payload = [] ∨ f.fport.isSome = true) : DataFrame.ofBytes f.bytes = f := by
  have hfctrl : byteAt f.bytes 5 = f.fctrl := by simp [dataFrame_bytes_eq, byteAt]
  have hfopts : slice f.bytes 8 (foptsLen f.fctrl) = f.fopts :=
    slice_eq_of_append (a := f.mhdr :: (le32 f.addr ++ f.fctrl :: le16 f.fcnt)) (by rw [dataFrame_bytes_eq]; simp; rfl)
      (by simp) hopts
  have hmic := dataFrame_mic_bytes f
  have haddr : numAt f.bytes 1 4 = f.addr := by simp [dataFrame_bytes_eq, numAt_cons, numAt_le32]
  have hfcnt : numAt f.bytes 6 2 = f.fcnt := by
    simp [dataFrame_bytes_eq, numAt_cons, numAt_append_right, numAt_le16]
  have hmhdr : byteAt f.bytes 0 = f.mhdr := by simp [dataFrame_bytes_eq, byteAt]
  have hlen := dataFrame_length f
  rw [DataFrame.ofBytes, hfctrl, hfopts, hmic, haddr, hfcnt, hmhdr]
  cases hf : f.fport with
  | none =>
    have hpay : f.payload = [] := by simpa [hf] using hport
    have hrem : f.bytes.length - 12 - foptsLen f.fctrl = 0 := by simp [hlen, hf, hpay, hopts]
    rw [hrem, if_pos rfl, ← hf, show slice f.bytes (9 + foptsLen f.fctrl) (0 - 1) = f.payload by simp [slice, hpay]]
  | some port =>
    have hrem : f.bytes.length - 12 - foptsLen f.fctrl = f.payload.length + 1 := by
      simp only [hlen, hf, hopts, Option.toList_some, List.length_singleton]
      omega
    have hsplit : f.bytes = (f.mhdr :: (le32 f.addr ++ f.fctrl :: (le16 f.fcnt ++ f.fopts))) ++ port ::
        (f.payload ++ le32 f.mic) := by simp [dataFrame_bytes_eq, hf]
    have hbyte : byteAt f.bytes (8 + foptsLen f.fctrl) = port :=
      byteAt_eq_of_append hsplit (by simp [hopts]; omega)
    have hpay : slice f.bytes (9 + foptsLen f.fctrl) f.payload.length = f.payload :=
      slice_eq_of_append (a := f.mhdr :: (le32 f.addr ++ f.fctrl :: (le16 f.fcnt ++ (f.fopts ++ [port]))))
        (c := le32 f.mic) (by simp [hsplit]) (by simp [hopts]; omega) rfl
    rw [hrem, if_neg (by omega), hbyte, Nat.add_sub_cancel, hpay, ← hf]

/-! ### The one-byte layouts (R62, R63, R68, R70) -/

/-- The three fields of `MHDR` cover its byte. -/
theorem mhdrByte_extract : ∀ b : Byte, mhdrByte (b.extractLsb' 5 3) (b.extractLsb' 2 3) (b.extractLsb' 0 2) = b := by
  decide

theorem dlSettingsByte_extract :
    ∀ b : Byte, dlSettingsByte (b.extractLsb' 7 1) (b.extractLsb' 4 3) (b.extractLsb' 0 4) = b := by
  decide

theorem fctrlByte_extract : ∀ b : Byte, fctrlByte (b.extractLsb' 7 1) (b.extractLsb' 6 1) (b.extractLsb' 5 1)
    (b.extractLsb' 4 1) (b.extractLsb' 0 4) = b := by
  decide

/-- The instruction of a message type is well-formed, arrives at the port of that type, and is one header byte. -/
theorem mtype_instr_encoding (k : MType) (rfu : BitVec 3) : (k.instr rfu).wellFormed = true
    ∧ portOf (k.instr rfu) = .wire (.mtype k) ∧ encode (k.instr rfu) = [mhdrByte k.bits rfu 0] := by
  cases k <;> exact ⟨rfl, rfl, rfl⟩

/-- The fields of each byte, read from the byte the encoder lays out. -/
theorem extract_mhdrByte (m r : BitVec 3) (j : BitVec 2) : (mhdrByte m r j).extractLsb' 5 3 = m
    ∧ (mhdrByte m r j).extractLsb' 2 3 = r ∧ (mhdrByte m r j).extractLsb' 0 2 = j := by
  revert m r j
  decide

theorem extract_dlSettingsByte (o : BitVec 1) (x : BitVec 3) (y : BitVec 4) :
    (dlSettingsByte o x y).extractLsb' 7 1 = o ∧ (dlSettingsByte o x y).extractLsb' 4 3 = x
    ∧ (dlSettingsByte o x y).extractLsb' 0 4 = y := by
  revert o x y
  decide

theorem extract_fctrlByte (a q k p : BitVec 1) (n : BitVec 4) :
    (fctrlByte a q k p n).extractLsb' 7 1 = a ∧ (fctrlByte a q k p n).extractLsb' 6 1 = q
    ∧ (fctrlByte a q k p n).extractLsb' 5 1 = k ∧ (fctrlByte a q k p n).extractLsb' 4 1 = p
    ∧ (fctrlByte a q k p n).extractLsb' 0 4 = n := by
  revert a q k p n
  decide

/-- What an instruction must be to be what a layout accepts. -/
def EncodesTo (l : Layout) (bs : List Byte) (i : Instr) : Prop :=
  i.wellFormed = true ∧ portOf i = .wire l ∧ encode i = bs

theorem encodesTo_of_decodeWireByte {l : Layout} {b : Byte} {i : Instr} (h : decodeWireByte l b = .ok i) :
    EncodesTo l [b] i := by
  cases l with
  | mhdr => cases h; exact ⟨rfl, rfl, congrArg (· :: []) (mhdrByte_extract b)⟩
  | mtype k =>
    simp only [decodeWireByte] at h
    split at h
    · next hbits =>
      obtain ⟨hk, hmajor⟩ := hbits
      cases h
      obtain ⟨hwf, hport, hencode⟩ := mtype_instr_encoding k (b.extractLsb' 2 3)
      refine ⟨hwf, hport, ?_⟩
      rw [hencode, ← hk, ← hmajor, mhdrByte_extract]
    · cases h
  | dlsettings => cases h; exact ⟨rfl, rfl, congrArg (· :: []) (dlSettingsByte_extract b)⟩
  | fctrl => cases h; exact ⟨rfl, rfl, congrArg (· :: []) (fctrlByte_extract b)⟩
  | _ => cases h

/-- Bytes for a one-byte layout are one byte. -/
theorem encodesTo_of_single {l : Layout} {s : List Byte} {i : Instr}
    (h : (match s with | [b] => decodeWireByte l b | _ => .error .notALayout : Except Reject Instr) = .ok i) :
    EncodesTo l s i := by
  split at h
  · exact encodesTo_of_decodeWireByte h
  · cases h

/-! ### The layouts of the frames -/

theorem joinAccept_wellFormed_ofBytes {s : List Byte} (h : s.length = 17 ∨ s.length = 33) :
    (JoinAccept.ofBytes s).wellFormed = true := by
  rcases h with h | h <;> simp [JoinAccept.wellFormed, JoinAccept.ofBytes, h, slice, cflistLen]

theorem dataFrame_wellFormed_ofBytes {s : List Byte} (hcap : s.length ≤ 255)
    (h : 12 + foptsLen (byteAt s 5) ≤ s.length) : (DataFrame.ofBytes s).wellFormed = true := by
  have hlen := dataFrame_length (DataFrame.ofBytes s)
  rw [dataFrame_bytes_ofBytes h] at hlen
  refine dataFrame_wellFormed_iff.2 ⟨FrameCodec.slice_length (by omega), ?_, hlen ▸ hcap⟩
  by_cases hrem : s.length - 12 - foptsLen (byteAt s 5) = 0
  · exact .inl (by simp [DataFrame.ofBytes, hrem, slice])
  · exact .inr (by simp [DataFrame.ofBytes, hrem])

/-- A layout accepts only what it encodes. -/
theorem encodesTo_of_decodeWire {l : Layout} {s : List Byte} {i : Instr} (h : decodeWire l s = .ok i) :
    EncodesTo l s i := by
  cases l with
  | mhdr | mtype _ | dlsettings | fctrl => exact encodesTo_of_single h
  | joinRequest =>
    simp only [decodeWire] at h
    split at h <;> cases h
    next hlen => exact ⟨rfl, rfl, joinRequest_bytes_ofBytes hlen⟩
  | rejoin02 =>
    simp only [decodeWire] at h
    split at h <;> cases h
    next hlen => exact ⟨by simpa [Instr.wellFormed, Rejoin02.ofBytes] using hlen.2, rfl, rejoin02_bytes_ofBytes hlen.1⟩
  | rejoin1 =>
    simp only [decodeWire] at h
    split at h <;> cases h
    next hlen => exact ⟨rfl, rfl, rejoin1_bytes_ofBytes hlen.1 hlen.2⟩
  | joinAccept =>
    simp only [decodeWire] at h
    split at h <;> cases h
    next hlen => exact ⟨joinAccept_wellFormed_ofBytes hlen, rfl, joinAccept_bytes_ofBytes hlen⟩
  | data =>
    simp only [decodeWire] at h
    split at h <;> cases h
    next hfits =>
      obtain ⟨hcap, hfits⟩ := hfits
      have hopts : 12 + foptsLen (byteAt s 5) ≤ s.length := by simpa [DataFrame.fits] using hfits
      exact ⟨dataFrame_wellFormed_ofBytes hcap hopts, rfl, dataFrame_bytes_ofBytes hopts⟩

/-! ### Operand records (R60, R75) -/

/-- The bytes of an operand with a value. -/
def operandBytes : Operand × Nat → List Byte
  | (.le n, v) => leBytes n v
  | (.be n, v) => beBytes n v

/-- The bytes of an operand record. -/
def recordBytes (ops : List (Operand × Nat)) : List Byte := ops.flatMap operandBytes

@[simp] theorem recordBytes_nil : recordBytes [] = [] := rfl

@[simp] theorem recordBytes_cons (op : Operand × Nat) (ops : List (Operand × Nat)) :
    recordBytes (op :: ops) = operandBytes op ++ recordBytes ops := rfl

/-- Every value fits its operand. -/
def OperandsFit (ops : List (Operand × Nat)) : Prop := ∀ op ∈ ops, op.2 < 256 ^ op.1.size

@[simp] theorem operandBytes_length (op : Operand × Nat) : (operandBytes op).length = op.1.size := by
  obtain ⟨_ | _, v⟩ := op <;> simp [operandBytes, Operand.size]

theorem value_operandBytes {op : Operand × Nat} (h : op.2 < 256 ^ op.1.size) : op.1.value (operandBytes op) = op.2 := by
  obtain ⟨_ | _, v⟩ := op
  · exact (unLe_leBytes _ v).trans (Nat.mod_eq_of_lt h)
  · exact (unBe_beBytes _ v).trans (Nat.mod_eq_of_lt h)

/-- A record that fits reads as its values. -/
theorem readOperands_recordBytes {ops : List (Operand × Nat)} (h : OperandsFit ops) :
    readOperands (ops.map Prod.fst) (recordBytes ops) = some (ops.map Prod.snd) := by
  induction ops with
  | nil => rfl
  | cons op ops ih =>
    obtain ⟨hop, hops⟩ := List.forall_mem_cons.1 h
    have hsize : op.1.size = (operandBytes op).length := (operandBytes_length op).symm
    simp only [List.map_cons, recordBytes_cons, readOperands]
    rw [if_neg (by simp), hsize, List.drop_left, List.take_left, value_operandBytes hop, ih hops]
    rfl

/-- A record is read unless an operand is missing: the bytes decide, not their values. -/
theorem readOperands_eq_none {form : List Operand} {s : List Byte} (h : s.length < (form.map Operand.size).sum) :
    readOperands form s = none := by
  induction form generalizing s with
  | nil => simp at h
  | cons o form ih =>
    rw [List.map_cons, List.sum_cons] at h
    rw [readOperands]
    split
    · rfl
    · rw [ih (by rw [List.length_drop]; omega)]
      rfl

theorem recordBytes_length (ops : List (Operand × Nat)) :
    (recordBytes ops).length = ((ops.map Prod.fst).map Operand.size).sum := by
  simp [recordBytes, List.length_flatMap, Function.comp_def]

/-- Where operand `k` of a record begins. -/
def operandOffset (ops : List (Operand × Nat)) (k : Nat) : Nat := (recordBytes (ops.take k)).length

/-- An operand of one byte is changed by writing its byte. -/
theorem recordBytes_set {ops : List (Operand × Nat)} {k x : Nat} (v : Byte) (h : ops[k]? = some (.le 1, x)) :
    (recordBytes ops).set (operandOffset ops k) v = recordBytes (ops.set k (.le 1, v.toNat)) := by
  induction ops generalizing k with
  | nil => simp at h
  | cons op ops ih =>
    cases k with
    | zero =>
      obtain rfl : op = (.le 1, x) := by simpa using h
      simp [operandOffset, operandBytes, leBytes]
    | succ k =>
      have hrest := ih (k := k) (by simpa using h)
      simp only [operandOffset] at hrest ⊢
      rw [List.take_succ_cons, recordBytes_cons, recordBytes_cons, List.length_append,
        List.set_append_right _ _ (Nat.le_add_right _ _), Nat.add_sub_cancel_left, hrest, List.set_cons_succ,
        recordBytes_cons]

/-! ### The commands: their code and their operand record -/

/-- The bytes that stand before a command's operand record: its code (R61), and for `SEC.DERIVE_MC` its stage. -/
def commandHead : Instr → List Byte
  | .secDeriveMc stage => (encode (.secDeriveMc stage)).take 2
  | i => (encode i).take 1

/-- The operands of a command with their values, in the order of its record (R75). `FRAME.PLACE_CMDS`, whose string
has no fixed length, has none here. -/
def commandOperands : Instr → List (Operand × Nat)
  | .mibGet id => [(.le 1, id.toNat)]
  | .mibSet id v => [(.le 1, id.toNat), (.le 4, v.toNat)]
  | .sysSetClass c now => [(.le 1, c.toNat), (.le 4, now.toNat)]
  | .mcAdd h a f d p now => [(.le 1, h.toNat), (.le 4, a.toNat), (.le 4, f.toNat), (.le 1, d.toNat), (.le 1, p.toNat),
      (.le 4, now.toNat)]
  | .mcRemove h now => [(.le 1, h.toNat), (.le 4, now.toNat)]
  | .serJoinreq c | .serRejoin c | .serJoinacc c | .serData c | .secJoinreq c | .secRejoin c => [(.le 1, c.toNat)]
  | .portCheck p c => [(.le 1, p.toNat), (.le 1, c.toNat)]
  | .secUplink n d ch c => [(.le 4, n.toNat), (.le 1, d.toNat), (.le 1, ch.toNat), (.le 1, c.toNat)]
  | .secDownlink k a ck n => [(.le 1, k.toNat), (.le 4, a.toNat), (.le 1, ck.toNat), (.le 4, n.toNat)]
  | .secJoinacc r e n => [(.le 1, r.toNat), (.be 8, e.toNat), (.le 2, n.toNat)]
  | .secDeriveSession v j n e d => [(.le 1, (variantByte v).toNat), (.le 3, j.toNat), (.le 3, n.toNat),
      (.be 8, e.toNat), (.le 2, d.toNat)]
  | .secDeriveMc (.key h k) => [(.le 1, h.toNat), (.be 16, k.toNat)]
  | .secDeriveMc (.session h a) => [(.le 1, h.toNat), (.le 4, a.toNat)]
  | .secDeriveLifetime e => [(.be 8, e.toNat)]
  | .fcntReconstruct k w => [(.le 1, k.toNat), (.le 2, w.toNat)]
  | .fcntReset sc h => [(.le 1, sc.toNat), (.le 1, h.toNat)]
  | .dcTxUpdate now toa c => [(.le 4, now.toNat), (.le 4, toa.toNat), (.le 1, c.toNat)]
  | .dcSchedule now d => [(.le 4, now.toNat), (.le 1, d.toNat)]
  | .adrUplinkEnd d => [(.le 1, d.toNat)]
  | .ackStart r => [(.le 1, r.toNat)]
  | .rxwTxDone now c => [(.le 4, now.toNat), (.le 1, c.toNat)]
  | .rxwOpen w => [(.le 1, w.toNat)]
  | .rxwRxDone o | .slotRxDone o => [(.le 1, o.toNat)]
  | .bcnRxBeacon now tb bs => [(.le 4, now.toNat), (.le 4, tb.toNat), (.le 4, bs.toNat)]
  | .bcnAcquire now | .bcnRxTimeout now | .bcnTimer now | .pingTimer now | .mcslotTimer now => [(.le 4, now.toNat)]
  | .pingSetInfo p now => [(.le 1, p.toNat), (.le 4, now.toNat)]
  | _ => []

/-- The operands that leave bits of their byte unused: their place in the record and how many values each has. -/
def narrowPlaces : Instr → List (Nat × Nat)
  | .sysSetClass .. | .mcRemove .. | .rxwRxDone _ | .slotRxDone _ => [(0, 4)]
  | .secDeriveMc (.key ..) | .secDeriveMc (.session ..) => [(0, 4)]
  | .mcAdd .. => [(0, 4), (4, 8)]
  | .portCheck .. | .dcSchedule .. | .rxwTxDone .. => [(1, 2)]
  | .secDownlink .. => [(0, 8), (2, 8)]
  | .fcntReconstruct .. | .pingSetInfo .. => [(0, 8)]
  | .fcntReset .. => [(0, 4), (1, 4)]
  | .secDeriveSession .. | .adrUplinkEnd _ | .rxwOpen _ => [(0, 2)]
  | _ => []

/-- A command of one operand record: every command but `FRAME.PLACE_CMDS`. -/
def hasRecord : Instr → Bool
  | .framePlaceCmds .. => false
  | i => portOf i == .command

theorem leBytes_one_byte (b : Byte) : leBytes 1 b.toNat = [b] := by simp [leBytes]

theorem leBytes_one_bool (b : Bool) : leBytes 1 b.toNat = [bitByte b] := by cases b <;> rfl

theorem variantByte_toNat (v : Variant) : (variantByte v).toNat ≤ 1 ∧ variantOf (variantByte v).toNat = v := by
  cases v <;> decide

theorem bit_toNat (b : Bool) : b.toNat ≤ 1 ∧ bit b.toNat = b := by
  cases b <;> decide

theorem encode_eq {i : Instr} (h : hasRecord i = true) :
    encode i = commandHead i ++ recordBytes (commandOperands i) := by
  cases i with
  | framePlaceCmds | evtPost | mhdr | mtypeJoinRequest | mtypeJoinAccept | mtypeUnconfirmedDataUp
  | mtypeUnconfirmedDataDown | mtypeConfirmedDataUp | mtypeConfirmedDataDown | mtypeRejoinRequest | mtypeProprietary
  | frameJoinRequest | frameRejoin02 | frameRejoin1 | frameJoinAccept | dlsettings | frameData | fctrl => cases h
  | secDeriveMc stage =>
    cases stage <;> simp [encode, commandHead, commandOperands, operandBytes, le32]
  | _ =>
    simp [encode, commandHead, commandOperands, operandBytes, leBytes_one_byte, leBytes_one_bool, le32, le16, le24]

theorem toNat_lt_of_width {w n : Nat} (v : BitVec w) (h : w ≤ 8 * n) : v.toNat < 256 ^ n := by
  rw [show 256 = 2 ^ 8 from rfl, ← Nat.pow_mul]
  exact v.isLt.trans_le (Nat.pow_le_pow_right (by decide) h)

theorem boolToNat_lt {n : Nat} (b : Bool) (h : 1 ≤ n) : b.toNat < 256 ^ n :=
  (Bool.toNat_lt b).trans_le ((by decide : 2 ≤ 256 ^ 1).trans (Nat.pow_le_pow_right (by decide) h))

/-- An operand's width is at most that of its bytes. -/
theorem commandOperands_fit (i : Instr) : OperandsFit (commandOperands i) := by
  cases i with
  | secDeriveMc stage =>
    cases stage <;> simp (disch := decide) only [OperandsFit, commandOperands, Operand.size, List.forall_mem_cons,
      toNat_lt_of_width, List.not_mem_nil, false_implies, implies_true, and_self]
  | _ => simp (disch := decide) only [OperandsFit, commandOperands, Operand.size, List.forall_mem_cons,
      toNat_lt_of_width, boolToNat_lt, List.not_mem_nil, false_implies, implies_true, and_self]

/-- What the decoder does with a command's record: it builds the instruction from the values, and none when an operand
is out of range. -/
structure BuildsFrom (i : Instr) (build : List Nat → Option Instr) : Prop where
  values : build ((commandOperands i).map Prod.snd) = some i
  range : ∀ place ∈ narrowPlaces i, ∀ v, place.2 ≤ v → build (((commandOperands i).map Prod.snd).set place.1 v) = none

/-- A command without operands is read whatever follows its head. -/
theorem builds_without_operands {i : Instr} (hops : commandOperands i = []) (hnarrow : narrowPlaces i = [])
    (h : ∀ s, decodeCommand (commandHead i ++ s) = .ok i) : ∃ build, BuildsFrom i build
      ∧ ∀ s, decodeCommand (commandHead i ++ s) = decodeRecord ((commandOperands i).map Prod.fst) s build := by
  refine ⟨fun _ => some i, ⟨rfl, fun place hplace => ?_⟩, fun s => ?_⟩
  · rw [hnarrow] at hplace
    cases hplace
  · rw [h, hops]
    rfl

theorem toNat_two_bits (v : BitVec 2) : v.toNat < 4 := v.isLt

theorem toNat_three_bits (v : BitVec 3) : v.toNat < 8 := v.isLt

/-- The table of R61: the decoder finds each command's own record behind its head. -/
theorem decodeCommand_record {i : Instr} (h : hasRecord i = true) : ∃ build, BuildsFrom i build
    ∧ ∀ s, decodeCommand (commandHead i ++ s) = decodeRecord ((commandOperands i).map Prod.fst) s build := by
  cases i with
  | framePlaceCmds | evtPost | mhdr | mtypeJoinRequest | mtypeJoinAccept | mtypeUnconfirmedDataUp
  | mtypeUnconfirmedDataDown | mtypeConfirmedDataUp | mtypeConfirmedDataDown | mtypeRejoinRequest | mtypeProprietary
  | frameJoinRequest | frameRejoin02 | frameRejoin1 | frameJoinAccept | dlsettings | frameData | fctrl => cases h
  | sysInit | evtDrain | parseJoinreq | parseRejoin | parseJoinacc | parseData | frameClassify | frameMatchAddr
  | fcntNextUp | adrNext | ackTimeout | ackReceived | bcnHalt => exact builds_without_operands rfl rfl fun _ => rfl
  | secDeriveMc stage =>
    cases stage with
    | root | ke => exact builds_without_operands rfl rfl fun _ => rfl
    | key | session =>
      refine ⟨_, ⟨?values, ?range⟩, fun _ => rfl⟩
      case values => simp [commandOperands, toNat_two_bits]
      case range => simp +contextual [commandOperands, narrowPlaces, Nat.not_lt.2]
  | _ =>
    refine ⟨_, ⟨?values, ?range⟩, fun _ => rfl⟩
    case values =>
      simp [commandOperands, toNat_two_bits, toNat_three_bits, variantByte_toNat, bit_toNat]
    case range => simp +contextual [commandOperands, narrowPlaces, Nat.not_lt.2]

/-- A whole record reads as its values: what they build is the instruction. -/
theorem decodeRecord_of_some {ops : List (Operand × Nat)} {build : List Nat → Option Instr} {i : Instr}
    (hfit : OperandsFit ops) (h : build (ops.map Prod.snd) = some i) :
    decodeRecord (ops.map Prod.fst) (recordBytes ops) build = .ok i := by
  simp only [decodeRecord, readOperands_recordBytes hfit, h]

/-- Values that build none are out of range. -/
theorem decodeRecord_of_none {ops : List (Operand × Nat)} {build : List Nat → Option Instr} (hfit : OperandsFit ops)
    (h : build (ops.map Prod.snd) = none) :
    decodeRecord (ops.map Prod.fst) (recordBytes ops) build = .error .operandRange := by
  simp only [decodeRecord, readOperands_recordBytes hfit, h]

theorem portOf_of_hasRecord {i : Instr} (h : hasRecord i = true) : portOf i = .command := by
  unfold hasRecord at h
  split at h
  · cases h
  · exact eq_of_beq h

theorem decode_encode_record {i : Instr} (h : hasRecord i = true) : decode (portOf i) (encode i) = .ok i := by
  obtain ⟨build, ⟨hvalues, -⟩, hdecode⟩ := decodeCommand_record h
  rw [portOf_of_hasRecord h, decode, encode_eq h, hdecode, decodeRecord_of_some (commandOperands_fit i) hvalues]

/-- `FRAME.PLACE_CMDS` has a length byte of its own. -/
theorem decode_encode_placeCmds {cmds : List Byte} {maxPld : Byte} (h : cmds.length ≤ 255) :
    decodeCommand (encode (.framePlaceCmds cmds maxPld)) = .ok (.framePlaceCmds cmds maxPld) := by
  have hlen : (BitVec.ofNat 8 cmds.length).toNat = cmds.length := by
    rw [BitVec.toNat_ofNat]
    omega
  have hmax : byteAt (cmds ++ [maxPld]) cmds.length = maxPld := byteAt_eq_of_append rfl rfl
  show decodePlaceCmds (BitVec.ofNat 8 cmds.length :: (cmds ++ [maxPld])) = _
  rw [decodePlaceCmds, hlen, if_neg (by simp), List.take_left, hmax]

/-! ### The event port -/

theorem decode_encode_evtPost (n : BitVec 4) (clock : Word) :
    decodeEvent (encode (.evtPost n clock)) = .ok (.evtPost n clock) := by
  have hbytes : encode (.evtPost n clock) = recordBytes [(.le 1, n.toNat), (.le 4, clock.toNat)] := by
    simp [encode, operandBytes, le32]
  have hfit : OperandsFit [(.le 1, n.toNat), (.le 4, clock.toNat)] := by
    simp (disch := decide) only [OperandsFit, Operand.size, List.forall_mem_cons, toNat_lt_of_width, List.not_mem_nil,
      false_implies, implies_true, and_self]
  have hread := readOperands_recordBytes hfit
  simp only [List.map_cons, List.map_nil] at hread
  have hrange : n.toNat < 16 ∧ (encode (.evtPost n clock)).length = 5 := ⟨n.isLt, by simp [encode]⟩
  rw [← hbytes] at hread
  simp only [decodeEvent, hread, if_pos hrange, BitVec.ofNat_toNat, BitVec.setWidth_eq]

/-! ### The wire ports -/

theorem decode_encode_mtype (k : MType) (rfu : BitVec 3) :
    decode (portOf (k.instr rfu)) (encode (k.instr rfu)) = .ok (k.instr rfu) := by
  obtain ⟨-, hport, hencode⟩ := mtype_instr_encoding k rfu
  obtain ⟨htype, hrfu, hmajor⟩ := extract_mhdrByte k.bits rfu 0
  rw [hport, hencode]
  show decodeWireByte (.mtype k) (mhdrByte k.bits rfu 0) = _
  rw [decodeWireByte, if_pos ⟨htype, hmajor⟩, hrfu]

/-- A well-formed frame is accepted in its layout. -/
theorem decode_encode_rejoin02 {f : Rejoin02} (h : f.rejoinType = 0 ∨ f.rejoinType = 2) :
    decodeWire .rejoin02 f.bytes = .ok (.frameRejoin02 f) := by
  rw [decodeWire, if_pos ⟨rejoin02_length f, h⟩, rejoin02_ofBytes_bytes]

theorem decode_encode_joinAccept {f : JoinAccept} (h : f.wellFormed = true) :
    decodeWire .joinAccept f.bytes = .ok (.frameJoinAccept f) := by
  have hlen : f.bytes.length = 17 ∨ f.bytes.length = 33 := by
    rw [joinAccept_length]
    cases hl : f.cflist with
    | none => exact .inl rfl
    | some l =>
      have hlist : l.length = 16 := by simpa [JoinAccept.wellFormed, hl, cflistLen] using h
      exact .inr (by rw [Option.getD_some, hlist])
  rw [decodeWire, if_pos hlen, joinAccept_ofBytes_bytes h]

theorem decode_encode_dataFrame {f : DataFrame} (h : f.wellFormed = true) :
    decodeWire .data f.bytes = .ok (.frameData f) := by
  obtain ⟨hopts, hport, hlen⟩ := dataFrame_wellFormed_iff.1 h
  have hfctrl : byteAt f.bytes 5 = f.fctrl := by simp [dataFrame_bytes_eq, byteAt]
  have hfits : DataFrame.fits f.bytes = true := by
    rw [DataFrame.fits, decide_eq_true_eq, hfctrl, ← hopts, dataFrame_length]
    omega
  rw [decodeWire, if_pos ⟨by rwa [dataFrame_length], hfits⟩, dataFrame_ofBytes_bytes hopts hport]

/-! ### A command cut short, and an operand out of range (R75, R271, R286) -/

theorem decodeRecord_short {form : List Operand} {s : List Byte} (build : List Nat → Option Instr)
    (h : s.length < (form.map Operand.size).sum) : decodeRecord form s build = .error .missingOperand := by
  rw [decodeRecord, readOperands_eq_none h]

/-- A head is the code alone, but for `SEC.DERIVE_MC`, whose stage belongs to it. -/
theorem commandHead_length (i : Instr) :
    (commandHead i).length ≤ 1 ∨ ∃ stage, i = .secDeriveMc stage ∧ (commandHead i).length ≤ 2 := by
  unfold commandHead
  split
  · next stage => exact .inr ⟨stage, rfl, List.length_take_le 2 _⟩
  · exact .inl (List.length_take_le 1 _)

theorem decodeCommand_take_record {i : Instr} (h : hasRecord i = true) {n : Nat} (hpos : 0 < n)
    (hn : n < (encode i).length) : decodeCommand ((encode i).take n) = .error .missingOperand := by
  by_cases hhead : (commandHead i).length ≤ n
  case pos =>
    obtain ⟨build, -, hdecode⟩ := decodeCommand_record h
    rw [encode_eq h, List.length_append, recordBytes_length] at hn
    rw [encode_eq h, List.take_append, List.take_of_length_le hhead, hdecode]
    exact decodeRecord_short build (by rw [List.length_take]; omega)
  case neg =>
    obtain hcode | ⟨stage, rfl, hstage⟩ := commandHead_length i
    · omega
    · obtain rfl : n = 1 := by omega
      cases stage <;> rfl

theorem decodeCommand_take_placeCmds {cmds : List Byte} {maxPld : Byte} (h : cmds.length ≤ 255) {n : Nat} (hpos : 0 < n)
    (hn : n < (encode (.framePlaceCmds cmds maxPld)).length) :
    decodeCommand ((encode (.framePlaceCmds cmds maxPld)).take n) = .error .missingOperand := by
  have hbytes : encode (.framePlaceCmds cmds maxPld) = 0x1A :: BitVec.ofNat 8 cmds.length :: (cmds ++ [maxPld]) := rfl
  have hlen : (BitVec.ofNat 8 cmds.length).toNat = cmds.length := by
    rw [BitVec.toNat_ofNat]
    omega
  rw [hbytes] at hn ⊢
  obtain rfl | ⟨k, rfl⟩ : n = 1 ∨ ∃ k, n = k + 2 := by
    obtain _ | _ | k := n
    · omega
    · exact .inl rfl
    · exact .inr ⟨k, rfl⟩
  · rfl
  · rw [List.take_succ_cons, List.take_succ_cons]
    show decodePlaceCmds (_ :: _) = _
    simp only [List.length_cons, List.length_append, List.length_nil] at hn
    rw [decodePlaceCmds, hlen, if_pos (by rw [List.length_take]; omega)]

/-- The stage of `SEC.DERIVE_MC`, which stands in its head, is narrow too. -/
def narrowStage : Instr → List (Nat × Nat)
  | .secDeriveMc _ => [(1, 4)]
  | _ => []

theorem eq_secDeriveMc_of_mem_narrowStage {i : Instr} {byte : Nat × Nat} (h : byte ∈ narrowStage i) :
    ∃ stage, i = .secDeriveMc stage ∧ byte = (1, 4) := by
  unfold narrowStage at h
  split at h
  · next stage => exact ⟨stage, rfl, List.mem_singleton.1 h⟩
  · cases h

/-- Where the narrow operands stand in the byte form: behind the head, where their operand begins. -/
theorem narrowOperands_eq (i : Instr) : narrowOperands i = narrowStage i ++ (narrowPlaces i).map fun place =>
    ((commandHead i).length + operandOffset (commandOperands i) place.1, place.2) := by
  cases i with
  | secDeriveMc stage => cases stage <;> rfl
  | _ => rfl

/-- Each of them has a byte of its own. -/
theorem narrowPlaces_byte (i : Instr) :
    ∀ place ∈ narrowPlaces i, ∃ x, (commandOperands i)[place.1]? = some (.le 1, x) := by
  cases i with
  | secDeriveMc stage => cases stage <;> simp [narrowPlaces, commandOperands]
  | _ => simp [narrowPlaces, commandOperands]

theorem map_set_values {ops : List (Operand × Nat)} {k x : Nat} (v : Nat) (h : ops[k]? = some (.le 1, x)) :
    (ops.set k (.le 1, v)).map Prod.fst = ops.map Prod.fst
    ∧ (ops.set k (.le 1, v)).map Prod.snd = (ops.map Prod.snd).set k v := by
  refine ⟨?_, List.map_set⟩
  obtain ⟨hk, heq⟩ := List.getElem?_eq_some_iff.1 h
  have hfst : (ops.map Prod.fst)[k]'(by simpa using hk) = .le 1 := by simp [heq]
  rw [List.map_set, ← hfst, List.set_getElem_self]

theorem operandsFit_set {ops : List (Operand × Nat)} (h : OperandsFit ops) (k : Nat) (v : Byte) :
    OperandsFit (ops.set k (.le 1, v.toNat)) := by
  intro op hop
  obtain hold | rfl := List.mem_or_eq_of_mem_set hop
  · exact h op hold
  · exact v.isLt

/-- A stage byte above 3 selects no record. -/
theorem decodeCommand_stage {stage : McStage} {v : Byte} (hv : 4 ≤ v.toNat) :
    decodeCommand ((encode (.secDeriveMc stage)).set 1 v) = .error .operandRange := by
  have hstage : ∀ s, decodeDeriveMc (v :: s) = .error .operandRange := fun s => by
    unfold decodeDeriveMc
    dsimp only
    split
    case h_5 => rfl
    all_goals omega
  cases stage with
  | root | ke | key | session => exact hstage _

theorem decodeCommand_set_narrow {i : Instr} (h : hasRecord i = true) {j limit : Nat} {v : Byte}
    (hnarrow : (j, limit) ∈ narrowOperands i) (hv : limit ≤ v.toNat) :
    decodeCommand ((encode i).set j v) = .error .operandRange := by
  rw [narrowOperands_eq, List.mem_append, List.mem_map] at hnarrow
  obtain hstage | ⟨place, hplace, heq⟩ := hnarrow
  · obtain ⟨stage, rfl, heq⟩ := eq_secDeriveMc_of_mem_narrowStage hstage
    obtain ⟨rfl, rfl⟩ := Prod.mk.inj heq
    exact decodeCommand_stage hv
  · obtain ⟨rfl, rfl⟩ := Prod.mk.inj heq
    obtain ⟨x, hop⟩ := narrowPlaces_byte i place hplace
    obtain ⟨build, ⟨-, hrange⟩, hdecode⟩ := decodeCommand_record h
    obtain ⟨hform, hvalues⟩ := map_set_values v.toNat hop
    have hfit := operandsFit_set (commandOperands_fit i) place.1 v
    rw [encode_eq h, List.set_append_right _ _ (Nat.le_add_right _ _), Nat.add_sub_cancel_left, recordBytes_set v hop,
      hdecode, ← hform]
    exact decodeRecord_of_none hfit (hvalues ▸ hrange place hplace v.toNat hv)

/-! ### What a step does with bytes at a port -/

theorem step_of_decode_ok {s : State} {p : Port} {bs : List Byte} {rest : List PortItem} {i : Instr} (hpar : s.par.Ok)
    (hport : s.port = .bytes p bs :: rest) (h : decode p bs = .ok i) : step s = exec i { s with port := rest } := by
  rw [step, if_neg (not_not.2 hpar), hport]
  dsimp only
  rw [h]

theorem step_of_decode_error {s : State} {p : Port} {bs : List Byte} {rest : List PortItem} {e : Reject}
    (hpar : s.par.Ok) (hport : s.port = .bytes p bs :: rest) (h : decode p bs = .error e) :
    step s = answerReject e { s with port := rest } := by
  rw [step, if_neg (not_not.2 hpar), hport]
  dsimp only
  rw [h]

/-! ### The obligations -/

/-- A command is `FRAME.PLACE_CMDS` or has a record. -/
theorem hasRecord_or_placeCmds {i : Instr} (h : portOf i = .command) :
    hasRecord i = true ∨ ∃ cmds maxPld, i = .framePlaceCmds cmds maxPld := by
  unfold hasRecord
  split
  · next cmds maxPld => exact .inr ⟨cmds, maxPld, rfl⟩
  · exact .inl (by rw [h]; rfl)

/-- Settles O4: at the command port by the operand record, at the others layout by layout. -/
theorem decodeOfEncode : Obligations.DecodeOfEncode := by
  intro i hwf
  cases i with
  | framePlaceCmds cmds maxPld => exact decode_encode_placeCmds (by simpa [Instr.wellFormed] using hwf)
  | evtPost n clock => exact decode_encode_evtPost n clock
  | mhdr m r j =>
    obtain ⟨hm, hr, hj⟩ := extract_mhdrByte m r j
    show decodeWireByte .mhdr (mhdrByte m r j) = _
    rw [decodeWireByte, hm, hr, hj]
  | mtypeJoinRequest rfu => exact decode_encode_mtype .joinRequest rfu
  | mtypeJoinAccept rfu => exact decode_encode_mtype .joinAccept rfu
  | mtypeUnconfirmedDataUp rfu => exact decode_encode_mtype .unconfirmedDataUp rfu
  | mtypeUnconfirmedDataDown rfu => exact decode_encode_mtype .unconfirmedDataDown rfu
  | mtypeConfirmedDataUp rfu => exact decode_encode_mtype .confirmedDataUp rfu
  | mtypeConfirmedDataDown rfu => exact decode_encode_mtype .confirmedDataDown rfu
  | mtypeRejoinRequest rfu => exact decode_encode_mtype .rejoinRequest rfu
  | mtypeProprietary rfu => exact decode_encode_mtype .proprietary rfu
  | frameJoinRequest f =>
    show decodeWire .joinRequest f.bytes = _
    rw [decodeWire, if_pos (joinRequest_length f), joinRequest_ofBytes_bytes]
  | frameRejoin02 f => exact decode_encode_rejoin02 (by simpa [Instr.wellFormed] using hwf)
  | frameRejoin1 f =>
    show decodeWire .rejoin1 f.bytes = _
    rw [decodeWire, if_pos ⟨rejoin1_length f, rfl⟩, rejoin1_ofBytes_bytes]
  | frameJoinAccept f => exact decode_encode_joinAccept hwf
  | dlsettings o x y =>
    obtain ⟨ho, hx, hy⟩ := extract_dlSettingsByte o x y
    show decodeWireByte .dlsettings (dlSettingsByte o x y) = _
    rw [decodeWireByte, ho, hx, hy]
  | frameData f => exact decode_encode_dataFrame hwf
  | fctrl a q k p n =>
    obtain ⟨ha, hq, hk, hp, hn⟩ := extract_fctrlByte a q k p n
    show decodeWireByte .fctrl (fctrlByte a q k p n) = _
    rw [decodeWireByte, ha, hq, hk, hp, hn]
  | _ => exact decode_encode_record rfl

/-- Settles O5: layout by layout, the fields of a string laid end to end are the string. -/
theorem encodeOfDecodedWire : Obligations.EncodeOfDecodedWire :=
  fun _ _ _ h => encodesTo_of_decodeWire h

/-- Settles O3: a record too short for its operands is refused before its values are looked at, and a value above its
operand's width builds no instruction. -/
theorem truncatedCommandIsErrNpe : Obligations.TruncatedCommandIsErrNpe := by
  intro i s rest hwf hcommand hpar
  refine ⟨fun n hpos hn hport => ?short, fun j limit v hnarrow hv hport => ?range⟩
  case short =>
    refine step_of_decode_error hpar hport (e := .missingOperand) ?_
    obtain hrecord | ⟨cmds, maxPld, rfl⟩ := hasRecord_or_placeCmds hcommand
    · exact decodeCommand_take_record hrecord hpos hn
    · exact decodeCommand_take_placeCmds (by simpa [Instr.wellFormed] using hwf) hpos hn
  case range =>
    refine step_of_decode_error hpar hport (e := .operandRange) ?_
    obtain hrecord | ⟨cmds, maxPld, rfl⟩ := hasRecord_or_placeCmds hcommand
    · exact decodeCommand_set_narrow hrecord hnarrow hv
    · cases hnarrow

/-- The item of a table word decodes to the word's instruction. -/
theorem decode_tableItem {nbits w : Nat} {i : Instr} (h : decodeTableWord nbits w = some i) :
    decode (tableItem nbits w).1 (tableItem nbits w).2 = .ok i := by
  unfold decodeTableWord at h
  split at h
  · next j hj => rwa [Option.some.inj h] at hj
  · cases h

/-- Settles O1: the step's own cases, and the item that `withFetchWord` has put first. -/
theorem stepRunsDecodedInstruction : Obligations.StepRunsDecodedInstruction := by
  refine ⟨fun s p bs rest i => step_of_decode_ok, fun s hpar hport => ?idle, fun s hpar => if_pos hpar,
    fun s nbits w i hpar hword => ?word⟩
  case idle => rw [step, if_neg (not_not.2 hpar), hport]
  case word => exact step_of_decode_ok (s := s.withFetchWord nbits w) hpar rfl (decode_tableItem hword)

/-- Settles O6: the decoder evaluated on six byte strings. -/
theorem specWordsDecode : Obligations.SpecWordsDecode := by
  unfold Obligations.SpecWordsDecode
  decide

end Sys2Proof.Proofs.Codec
end

section
/-! Serializing and parsing (40_frame_codec.md R100 to R110): the capacity contract, the frame of each `SER` command,
and the two halves of the round-trip law. -/

namespace Sys2Proof.Proofs.Serialize

open Sys2Proof Sys2Proof.Machine
open Sys2Proof.Proofs.FrameCodec
open Sys2Proof.Proofs.Codec

/-! ### Which function each command runs -/

theorem exec_serRejoin (cap : Byte) (s : State) : exec (.serRejoin cap) s = execSerRejoin cap s := rfl

theorem exec_serData (cap : Byte) (s : State) : exec (.serData cap) s = execSerData cap s := rfl

/-! ### Buffers: reads after writes -/

theorem read_write_of_length (s : State) (b : Buf) (off : Nat) {bs : List Byte} {n : Nat} (h : bs.length = n) :
    (s.write b off bs).read b off n = some bs :=
  h ▸ read_write_same s b off bs

theorem read_write_other (s : State) {b c : Buf} (off off' n : Nat) (bs : List Byte) (h : c ≠ b) :
    (s.write b off bs).read c off' n = s.read c off' n := by
  rw [State.read, write_mem, buf_write_other _ _ _ h, State.read]

/-- An array of the frame descriptor is what a read of it gives. -/
theorem fdArray_eq_of_read {s : State} {b : Buf} {n : Nat} {bs : List Byte} (hb : b = .fopts ∨ b = .cflist)
    (h : s.read b 0 n = some bs) : s.fdArray b n = bs :=
  Option.some.inj ((read_fdArray s hb n).symm.trans h)

/-! ### The capacity contract (R100) -/

theorem capOk_iff {par : Params} {cap : Byte} : capOk par cap = true ↔ 1 ≤ cap.toNat ∧ cap.toNat ≤ par.phyMax := by
  simp [capOk]

theorem capOk_eq_false_iff {par : Params} {cap : Byte} :
    capOk par cap = false ↔ cap.toNat = 0 ∨ par.phyMax < cap.toNat := by
  simp only [capOk, Bool.and_eq_false_iff, decide_eq_false_iff_not]
  omega

/-- A capacity that is a byte bounds the frames under it. -/
theorem toNat_ofNat_length {m : List Byte} {cap : Byte} (h : m.length ≤ cap.toNat) :
    (BitVec.ofNat 8 m.length).toNat = m.length := by
  have := cap.isLt
  rw [BitVec.toNat_ofNat, Nat.mod_eq_of_lt (by omega)]

theorem serialize_short {cap : Byte} {m : List Byte} {s : State} (h : cap.toNat < m.length) :
    serialize cap m s = .next (failedWith .errBufSize s) := by
  rw [serialize, if_pos h, raise_eq_failedWith]

theorem serialize_fits {cap : Byte} {m : List Byte} {s : State} (h : m.length ≤ cap.toNat) :
    serialize cap m s = .next (answeredOk [] (s.putTx m)) := by
  rw [serialize, if_neg (Nat.not_lt.2 h), done_eq_answeredOk]

/-- A command that tests its capacity and then serializes a frame. -/
def LaysOut (o : Out) (cap : Byte) (m : List Byte) (s : State) : Prop :=
  o = if !capOk s.par cap then raise .errParam s else serialize cap m s

/-- Such a command keeps the contract. -/
theorem LaysOut.contract {o : Out} {cap : Byte} {m : List Byte} {s : State} (h : LaysOut o cap m s) :
    SerContract o cap m s := by
  rw [LaysOut] at h
  refine ⟨fun hcap => ?param, fun h1 h2 hshort => ?short, fun h1 h2 hfits => ?fits⟩
  case param => rw [h, capOk_eq_false_iff.2 hcap]; rfl
  case short => rw [h, capOk_iff.2 ⟨h1, h2⟩]; exact serialize_short hshort
  case fits =>
    refine ⟨answeredOk [] (s.putTx m), ?_, rfl, stores_write s .tx m⟩
    rw [h, capOk_iff.2 ⟨h1, h2⟩]
    exact serialize_fits hfits

/-- With room for the frame it is laid out. -/
theorem LaysOut.fits {o : Out} {cap : Byte} {m : List Byte} {s : State} (h : LaysOut o cap m s)
    (hpos : 0 < m.length) (hcap : cap.toNat ≤ s.par.phyMax) (hfits : m.length ≤ cap.toNat) :
    o = .next (answeredOk [] (s.putTx m)) := by
  rw [h, capOk_iff.2 ⟨by omega, hcap⟩]
  exact serialize_fits hfits

/-- What has been laid out with `OK` had room. -/
theorem LaysOut.ok {o : Out} {cap : Byte} {m : List Byte} {s t : State} (h : LaysOut o cap m s) (ht : o = .next t)
    (hok : t.status = .ok) :
    cap.toNat ≤ s.par.phyMax ∧ m.length ≤ cap.toNat ∧ t = answeredOk [] (s.putTx m) := by
  rw [LaysOut] at h
  by_cases hcap : capOk s.par cap = true
  case neg =>
    rw [h, Bool.eq_false_iff.2 hcap] at ht
    cases ht
    cases hok
  case pos =>
    rw [h, hcap] at ht
    by_cases hshort : cap.toNat < m.length
    · rw [if_neg (by simp), serialize_short hshort] at ht
      cases ht
      cases hok
    · rw [if_neg (by simp), serialize_fits (Nat.not_lt.1 hshort)] at ht
      cases ht
      exact ⟨(capOk_iff.1 hcap).2, Nat.not_lt.1 hshort, rfl⟩

/-! ### The frame of each command (R101 to R104) -/

theorem serJoinreq_laysOut (cap : Byte) (s : State) :
    LaysOut (exec (.serJoinreq cap) s) cap s.fd.joinRequest.bytes s := rfl

theorem serRejoin_laysOut_02 (cap : Byte) {s : State} (h : s.fd.rejoinType = 0 ∨ s.fd.rejoinType = 2) :
    LaysOut (exec (.serRejoin cap) s) cap s.fd.rejoin02.bytes s := by
  refine if_congr Iff.rfl rfl ?_
  rw [if_pos h]

theorem serRejoin_laysOut_1 (cap : Byte) {s : State} (h : s.fd.rejoinType = 1) :
    LaysOut (exec (.serRejoin cap) s) cap s.fd.rejoin1.bytes s := by
  refine if_congr Iff.rfl rfl ?_
  rw [if_neg (by simp [h]), if_pos h]

theorem serRejoin_illegal (cap : Byte) {s : State} (h : 2 < s.fd.rejoinType.toNat) :
    exec (.serRejoin cap) s = .next (failedWith .errParam s) := by
  have h0 : ¬ (s.fd.rejoinType = 0 ∨ s.fd.rejoinType = 2) := by bv_omega
  have h1 : ¬ s.fd.rejoinType = 1 := by bv_omega
  rw [exec_serRejoin, execSerRejoin, if_neg h0, if_neg h1, ite_self, raise_eq_failedWith]

/-- The list a join-accept is laid out with. -/
def laidOutList (s : State) : Option (List Byte) := if s.fd.cflistPresent then some (s.fdArray .cflist 16) else none

theorem laidOutList_length (s : State) :
    ((laidOutList s).getD []).length = if s.fd.cflistPresent then 16 else 0 := by
  unfold laidOutList
  split <;> simp

/-- The first length test refuses nothing that the second would not. -/
theorem serJoinacc_laysOut (cap : Byte) (s : State) :
    LaysOut (exec (.serJoinacc cap) s) cap (s.fd.joinAccept (laidOutList s)).bytes s := by
  have hlen : (s.fd.joinAccept (laidOutList s)).bytes.length = 17 + if s.fd.cflistPresent then 16 else 0 := by
    rw [joinAccept_length, ← laidOutList_length]
    rfl
  have hser : (if s.fd.cflistPresent then serialize cap (s.fd.joinAccept (some (s.fdArray .cflist 16))).bytes s
      else serialize cap (s.fd.joinAccept none).bytes s)
      = serialize cap (s.fd.joinAccept (laidOutList s)).bytes s := by
    unfold laidOutList
    split <;> rfl
  refine if_congr Iff.rfl rfl ?_
  rw [hser, ← hlen]
  split
  · next hshort => rw [serialize_short hshort, raise_eq_failedWith]
  · rfl

theorem port_toList (d : FrameDesc) : d.port.toList = if d.fportPresent then [d.fport] else [] := by
  unfold FrameDesc.port
  split <;> rfl

/-- The length the descriptor announces is that of the frame. -/
theorem dataFrame_bytes_length {d : FrameDesc} {fo pl : List Byte} (hfo : fo.length = foptsLen d.fctrl)
    (hpl : pl.length = d.pldLen.toNat) : (d.dataFrame fo pl).bytes.length = d.dataLen := by
  rw [dataFrame_length, FrameDesc.dataLen, ← hfo, ← hpl]
  simp only [FrameDesc.dataFrame, port_toList]
  cases d.fportPresent <;> rfl

theorem serData_laysOut (cap : Byte) {s : State} {pl : List Byte} (hport : s.fd.pldLen = 0 ∨ s.fd.fportPresent = true)
    (hread : s.read .pld 0 s.fd.pldLen.toNat = some pl) : LaysOut (exec (.serData cap) s) cap
      (s.fd.dataFrame (s.fdArray .fopts (foptsLen s.fd.fctrl)) pl).bytes s := by
  have hlen := dataFrame_bytes_length (d := s.fd) (fdArray_length s .fopts _) (length_of_read hread)
  have hnoport : ¬ (s.fd.pldLen ≠ 0 ∧ s.fd.fportPresent = false) := by
    rintro ⟨h0, hf⟩
    exact hport.elim h0 fun h => by simp [hf] at h
  refine if_congr Iff.rfl rfl ?_
  rw [if_neg hnoport, hread, orFault_some]
  split
  · next hshort => rw [serialize_short (hlen ▸ hshort), raise_eq_failedWith]
  · rfl

theorem serData_noPort (cap : Byte) {s : State} (h0 : s.fd.pldLen ≠ 0) (hf : s.fd.fportPresent = false) :
    exec (.serData cap) s = .next (failedWith .errParam s) := by
  rw [exec_serData, execSerData, if_pos (c := s.fd.pldLen ≠ 0 ∧ _) ⟨h0, hf⟩, ite_self, raise_eq_failedWith]

/-! ### A frame laid out, copied to `RXBUF` -/

/-- `u` is as `s` but for the two frame buffers, their lengths and the answer, and has received `m`. -/
structure Received (s u : State) (m : List Byte) : Prop where
  fd : u.fd = s.fd
  length : u.rxLen.toNat = m.length
  capacity : u.rxLen.toNat ≤ u.par.phyMax
  frame : u.read .rx 0 u.rxLen.toNat = some m
  arrays : ∀ b, b ≠ .tx → b ≠ .rx → ∀ n, u.read b 0 n = s.read b 0 n

/-- What a command has laid out with `OK`, copied to `RXBUF`, has been received. -/
theorem LaysOut.received {o : Out} {cap : Byte} {m bytes : List Byte} {s t : State} (h : LaysOut o cap m s)
    (hok : t.status = .ok) (hread : t.read .tx 0 t.txLen.toNat = some bytes) (ht : o = .next t) :
    Received s { t.write .rx 0 bytes with rxLen := t.txLen } m := by
  obtain ⟨hcap, hfits, rfl⟩ := h.ok ht hok
  have hlen : (answeredOk [] (s.putTx m)).txLen.toNat = m.length := toNat_ofNat_length hfits
  have hm : (answeredOk [] (s.putTx m)).read .tx 0 m.length = some m := read_write_same s .tx 0 m
  rw [hlen] at hread
  obtain rfl : m = bytes := Option.some.inj (hm.symm.trans hread)
  have hrx : ((answeredOk [] (s.putTx m)).write .rx 0 m).read .rx 0 m.length = some m := read_write_same _ .rx 0 m
  refine ⟨rfl, hlen, hlen.trans_le (hfits.trans hcap), ?_, fun b htx hrx n => ?_⟩
  · show State.read _ _ _ (BitVec.toNat _) = _
    rw [hlen]
    exact hrx
  · exact (read_write_other (answeredOk [] (s.putTx m)) 0 0 n m hrx).trans (read_write_other s 0 0 n m htx)

theorem Received.rxLen {s u : State} {m : List Byte} (h : Received s u m) {n : Nat} (hm : m.length = n)
    (hn : n < 2 ^ 8 := by decide) : u.rxLen = BitVec.ofNat 8 n := by
  rw [← BitVec.toNat_inj, BitVec.toNat_ofNat, Nat.mod_eq_of_lt hn, h.length, hm]

/-! ### The first half of R110: what was laid out parses back -/

theorem Received.parseJoinreq {s u : State} (h : Received s u s.fd.joinRequest.bytes) :
    ∃ v, exec .parseJoinreq u = .next v ∧ v.status = .ok ∧ v.fd = s.fd := by
  have hlen := h.rxLen (joinRequest_length _)
  have hread := h.frame
  have hcap := h.capacity
  rw [hlen] at hread hcap
  refine ⟨_, parseJoinreq_accepts hlen hcap hread, rfl, ?_⟩
  rw [joinRequest_ofBytes_bytes, h.fd]
  rfl

theorem Received.parseRejoin_02 {s u : State} (h : Received s u s.fd.rejoin02.bytes)
    (htype : s.fd.rejoinType = 0 ∨ s.fd.rejoinType = 2) :
    ∃ v, exec .parseRejoin u = .next v ∧ v.status = .ok ∧ v.fd = s.fd := by
  have hlen := h.rxLen (rejoin02_length _)
  have hread := h.frame
  have hcap := h.capacity
  rw [hlen] at hread hcap
  refine ⟨_, parseRejoin_accepts_02 hlen hcap hread htype, rfl, ?_⟩
  rw [rejoin02_ofBytes_bytes, h.fd]
  rfl

theorem Received.parseRejoin_1 {s u : State} (h : Received s u s.fd.rejoin1.bytes) (htype : s.fd.rejoinType = 1) :
    ∃ v, exec .parseRejoin u = .next v ∧ v.status = .ok ∧ v.fd = s.fd := by
  have hlen := h.rxLen (rejoin1_length _)
  have hread := h.frame
  have hcap := h.capacity
  rw [hlen] at hread hcap
  refine ⟨_, parseRejoin_accepts_1 hlen hcap hread rfl, rfl, ?_⟩
  rw [rejoin1_ofBytes_bytes, h.fd, FrameDesc.setRejoin1, ← htype]
  rfl

theorem laidOutList_wellFormed (s : State) : (s.fd.joinAccept (laidOutList s)).wellFormed = true := by
  simp only [JoinAccept.wellFormed, FrameDesc.joinAccept, laidOutList]
  split <;> simp [cflistLen]

theorem laidOutList_isSome (s : State) : (laidOutList s).isSome = s.fd.cflistPresent := by
  unfold laidOutList
  split <;> simp_all

theorem Received.parseJoinacc {s u : State} (h : Received s u (s.fd.joinAccept (laidOutList s)).bytes) :
    ∃ v, exec .parseJoinacc u = .next v ∧ v.status = .ok ∧ v.fd = s.fd
      ∧ v.read .cflist 0 16 = s.read .cflist 0 16 := by
  have hbytes : (s.fd.joinAccept (laidOutList s)).bytes.length = 17 + if s.fd.cflistPresent then 16 else 0 :=
    (joinAccept_length _).trans (congrArg (17 + ·) (laidOutList_length s))
  have hlen : u.rxLen = 17 ∨ u.rxLen = 33 := by
    cases hl : s.fd.cflistPresent with
    | false => exact .inl (h.rxLen (n := 17) (by simp [hbytes, hl]))
    | true => exact .inr (h.rxLen (n := 33) (by simp [hbytes, hl]))
  refine ⟨_, parseJoinacc_accepts hlen h.capacity h.frame, rfl, ?_, ?_⟩
  · rw [joinAccept_ofBytes_bytes (laidOutList_wellFormed s)]
    simp only [answeredOk, State.setJoinAccept, FrameDesc.joinAccept, h.fd, laidOutList_isSome]
  · rw [joinAccept_ofBytes_bytes (laidOutList_wellFormed s)]
    show (u.write .cflist 0 ((laidOutList s).getD [])).read .cflist 0 16 = _
    unfold laidOutList
    split
    · rw [Option.getD_some, read_write_of_length _ _ _ (fdArray_length _ _ _), read_fdArray s (.inr rfl)]
    · exact h.arrays .cflist nofun nofun 16

/-- What the descriptor and its buffers hold is a data frame that can be read back. -/
theorem dataFrame_ofBytes_descriptor {d : FrameDesc} {fo pl : List Byte} (hfo : fo.length = foptsLen d.fctrl)
    (hpl : pl.length = d.pldLen.toNat) (hport : d.pldLen = 0 ∨ d.fportPresent = true) :
    DataFrame.ofBytes (d.dataFrame fo pl).bytes = d.dataFrame fo pl := by
  refine dataFrame_ofBytes_bytes hfo (hport.imp (fun h0 => ?_) fun hp => ?_)
  · exact List.length_eq_zero_iff.1 (hpl.trans (by rw [h0]; rfl))
  · simp [FrameDesc.dataFrame, FrameDesc.port, hp]

theorem read_setDataFrame_fopts (s : State) {f : DataFrame} {n : Nat} (h : f.fopts.length = n) :
    (s.setDataFrame f).read .fopts 0 n = some f.fopts :=
  (read_write_other (s.write .fopts 0 f.fopts) 0 0 n f.payload (by decide)).trans (read_write_of_length s .fopts 0 h)

theorem read_setDataFrame_pld (s : State) {f : DataFrame} {n : Nat} (h : f.payload.length = n) :
    (s.setDataFrame f).read .pld 0 n = some f.payload :=
  read_write_of_length (s.write .fopts 0 f.fopts) .pld 0 h

theorem port_isSome (d : FrameDesc) : d.port.isSome = d.fportPresent := by
  unfold FrameDesc.port
  split <;> simp_all

theorem port_getD (d : FrameDesc) : d.port.getD 0 = if d.fportPresent then d.fport else 0 := by
  unfold FrameDesc.port
  split <;> rfl

theorem Received.parseData {s u : State} {pl : List Byte} (hport : s.fd.pldLen = 0 ∨ s.fd.fportPresent = true)
    (hpl : s.read .pld 0 s.fd.pldLen.toNat = some pl)
    (h : Received s u (s.fd.dataFrame (s.fdArray .fopts (foptsLen s.fd.fctrl)) pl).bytes) :
    ∃ v, exec .parseData u = .next v ∧ v.status = .ok
      ∧ v.fd = { s.fd with fport := if s.fd.fportPresent then s.fd.fport else 0 }
      ∧ v.read .fopts 0 (foptsLen s.fd.fctrl) = s.read .fopts 0 (foptsLen s.fd.fctrl)
      ∧ v.read .pld 0 s.fd.pldLen.toNat = s.read .pld 0 s.fd.pldLen.toNat := by
  have hfo : (s.fdArray .fopts (foptsLen s.fd.fctrl)).length = foptsLen s.fd.fctrl := fdArray_length ..
  have hlen := length_of_read hpl
  have hback := dataFrame_ofBytes_descriptor (d := s.fd) hfo hlen hport
  have hfit := dataFrame_bytes_length (d := s.fd) hfo hlen
  have hread : s.read .fopts 0 (foptsLen s.fd.fctrl) = some _ := read_fdArray s (.inl rfl) _
  generalize s.fdArray .fopts (foptsLen s.fd.fctrl) = fo at *
  have hctrl : foptsLen (byteAt (s.fd.dataFrame fo pl).bytes 5) = foptsLen s.fd.fctrl :=
    congrArg (fun f => foptsLen f.fctrl) hback
  have hopts : 12 + foptsLen (byteAt (s.fd.dataFrame fo pl).bytes 5) ≤ u.rxLen.toNat := by
    rw [hctrl, h.length, hfit, FrameDesc.dataLen]
    omega
  have hpld : BitVec.ofNat 8 pl.length = s.fd.pldLen := by rw [hlen, BitVec.ofNat_toNat, BitVec.setWidth_eq]
  refine ⟨_, parseData_accepts h.capacity h.frame hopts, rfl, ?_, ?_, ?_⟩ <;> rw [hback]
  · simp only [answeredOk, State.setDataFrame, FrameDesc.dataFrame, h.fd, port_isSome, port_getD, hpld]
  · exact (read_setDataFrame_fopts u hfo).trans hread.symm
  · exact (read_setDataFrame_pld u hlen).trans hpl.symm

/-! ### The second half of R110: what was parsed lays out again -/

/-- What a `PARSE` command answers `OK` to is not what it refuses. -/
theorem not_ok_of_failed {o : Out} {st : Status} {s t : State} (h : o = .next (failedWith st s)) (hst : st ≠ .ok)
    (ht : o = .next t) (hok : t.status = .ok) : False := by
  rw [h] at ht
  cases ht
  exact hst hok

/-- A frame laid out under a capacity that holds it stands in `TXBUF` with its length. -/
theorem LaysOut.again {o : Out} {cap len : Byte} {m : List Byte} {t : State} (h : LaysOut o cap m t)
    (hm : m.length = len.toNat) (hpos : 0 < m.length) (hcap : cap.toNat ≤ t.par.phyMax) (hlen : len.toNat ≤ cap.toNat) :
    ∃ u, o = .next u ∧ u.status = .ok ∧ u.txLen = len ∧ u.read .tx 0 len.toNat = some m := by
  refine ⟨_, h.fits hpos hcap (hm ▸ hlen), rfl, ?_, read_write_of_length t .tx 0 hm⟩
  show BitVec.ofNat 8 m.length = len
  rw [hm, BitVec.ofNat_toNat, BitVec.setWidth_eq]

theorem serJoinreq_of_parsed {cap : Byte} {s t : State} {b : List Byte} (hread : s.read .rx 0 s.rxLen.toNat = some b)
    (hok : t.status = .ok) (hlen : s.rxLen.toNat ≤ cap.toNat) (hcap : cap.toNat ≤ s.par.phyMax)
    (hp : exec .parseJoinreq s = .next t) :
    ∃ u, exec (.serJoinreq cap) t = .next u ∧ u.status = .ok ∧ u.txLen = s.rxLen
      ∧ u.read .tx 0 s.rxLen.toNat = some b := by
  by_cases h23 : s.rxLen = 23
  case neg => exact (not_ok_of_failed (parseJoinreq_refuses (.inl h23)) nofun hp hok).elim
  have hb := length_of_read hread
  have hnat : s.rxLen.toNat = 23 := by rw [h23]; rfl
  rw [hnat] at hread hlen
  rw [parseJoinreq_accepts h23 (hlen.trans hcap) hread] at hp
  cases hp
  have hm : (s.fd.setJoinRequest (.ofBytes b)).joinRequest.bytes = b := joinRequest_bytes_ofBytes (hb.trans hnat)
  have hout := serJoinreq_laysOut cap { answeredOk [] s with fd := s.fd.setJoinRequest (.ofBytes b) }
  rw [hm] at hout
  exact hout.again hb (by omega) hcap (hnat ▸ hlen)

theorem serRejoin_of_parsed {cap : Byte} {s t : State} {b : List Byte} (hread : s.read .rx 0 s.rxLen.toNat = some b)
    (hok : t.status = .ok) (hlen : s.rxLen.toNat ≤ cap.toNat) (hcap : cap.toNat ≤ s.par.phyMax)
    (hp : exec .parseRejoin s = .next t) :
    ∃ u, exec (.serRejoin cap) t = .next u ∧ u.status = .ok ∧ u.txLen = s.rxLen
      ∧ u.read .tx 0 s.rxLen.toNat = some b := by
  have hb := length_of_read hread
  by_cases h2 : s.rxLen.toNat < 2
  case pos => exact (not_ok_of_failed (parseRejoin_refuses_length (.inl h2)) nofun hp hok).elim
  by_cases h02 : (byteAt b 1 = 0 ∨ byteAt b 1 = 2) ∧ s.rxLen = 19
  case pos =>
    obtain ⟨htype, h19⟩ := h02
    have hnat : s.rxLen.toNat = 19 := by rw [h19]; rfl
    rw [hnat] at hread hlen
    rw [parseRejoin_accepts_02 h19 (hlen.trans hcap) hread htype] at hp
    cases hp
    have hm : (s.fd.setRejoin02 (.ofBytes b)).rejoin02.bytes = b := rejoin02_bytes_ofBytes (hb.trans hnat)
    have hout := serRejoin_laysOut_02 cap
      (s := { answeredOk [] s with fd := s.fd.setRejoin02 (.ofBytes b) }) htype
    rw [hm] at hout
    exact hout.again hb (by omega) hcap (hnat ▸ hlen)
  by_cases h1 : byteAt b 1 = 1 ∧ s.rxLen = 24
  case pos =>
    obtain ⟨htype, h24⟩ := h1
    have hnat : s.rxLen.toNat = 24 := by rw [h24]; rfl
    rw [hnat] at hread hlen
    rw [parseRejoin_accepts_1 h24 (hlen.trans hcap) hread htype] at hp
    cases hp
    have hm : (s.fd.setRejoin1 (.ofBytes b)).rejoin1.bytes = b := rejoin1_bytes_ofBytes (hb.trans hnat) htype
    have hout := serRejoin_laysOut_1 cap (s := { answeredOk [] s with fd := s.fd.setRejoin1 (.ofBytes b) }) rfl
    rw [hm] at hout
    exact hout.again hb (by omega) hcap (hnat ▸ hlen)
  exact (not_ok_of_failed (parseRejoin_refuses_type (byteOf_of_read hread (by omega)) h02 h1) nofun hp hok).elim

/-- The list of a join-accept as it stands in the descriptor it was parsed into. -/
theorem laidOutList_setJoinAccept (s : State) {f : JoinAccept} (h : f.wellFormed = true) :
    laidOutList (answeredOk [] (s.setJoinAccept f)) = f.cflist := by
  have hpresent : (answeredOk [] (s.setJoinAccept f)).fd.cflistPresent = f.cflist.isSome := rfl
  rw [laidOutList, hpresent]
  rcases Option.eq_none_or_eq_some f.cflist with hl | ⟨l, hl⟩
  · rw [if_neg (by simp [hl]), hl]
  · have h16 : (f.cflist.getD []).length = 16 := by simpa [JoinAccept.wellFormed, hl, cflistLen] using h
    have hstored : (answeredOk [] (s.setJoinAccept f)).read .cflist 0 16 = some (f.cflist.getD []) :=
      read_write_of_length s .cflist 0 h16
    rw [if_pos (by simp [hl]), fdArray_eq_of_read (.inr rfl) hstored, hl]
    rfl

theorem serJoinacc_of_parsed {cap : Byte} {s t : State} {b : List Byte} (hread : s.read .rx 0 s.rxLen.toNat = some b)
    (hok : t.status = .ok) (hlen : s.rxLen.toNat ≤ cap.toNat) (hcap : cap.toNat ≤ s.par.phyMax)
    (hp : exec .parseJoinacc s = .next t) :
    ∃ u, exec (.serJoinacc cap) t = .next u ∧ u.status = .ok ∧ u.txLen = s.rxLen
      ∧ u.read .tx 0 s.rxLen.toNat = some b := by
  have hb := length_of_read hread
  by_cases hl : s.rxLen = 17 ∨ s.rxLen = 33
  case neg => exact (not_ok_of_failed (parseJoinacc_refuses (.inl (not_or.1 hl))) nofun hp hok).elim
  have hnat : b.length = 17 ∨ b.length = 33 := by
    rw [hb]
    exact hl.imp (fun h => by rw [h]; rfl) fun h => by rw [h]; rfl
  rw [parseJoinacc_accepts hl (hlen.trans hcap) hread] at hp
  cases hp
  have hm : (JoinAccept.ofBytes b).bytes = b := joinAccept_bytes_ofBytes hnat
  have hout := serJoinacc_laysOut cap (answeredOk [] (s.setJoinAccept (.ofBytes b)))
  rw [laidOutList_setJoinAccept s (joinAccept_wellFormed_ofBytes hnat),
    show (answeredOk [] (s.setJoinAccept (.ofBytes b))).fd.joinAccept (JoinAccept.ofBytes b).cflist = .ofBytes b
      from rfl,
    hm] at hout
  exact hout.again hb (by omega) hcap hlen

theorem toNat_ofNat_pldLen {f : DataFrame} (h : f.wellFormed = true) :
    (BitVec.ofNat 8 f.payload.length).toNat = f.payload.length := by
  obtain ⟨-, -, hlen⟩ := dataFrame_wellFormed_iff.1 h
  rw [BitVec.toNat_ofNat, Nat.mod_eq_of_lt (by omega)]

/-- What was taken into the descriptor and the buffers is what they lay out. -/
theorem dataFrame_setDataFrame (s : State) {f : DataFrame} (h : f.wellFormed = true) :
    (s.setDataFrame f).fd.dataFrame ((s.setDataFrame f).fdArray .fopts (foptsLen f.fctrl)) f.payload = f := by
  obtain ⟨hopts, -, -⟩ := dataFrame_wellFormed_iff.1 h
  have hport : (s.setDataFrame f).fd.port = f.fport := by
    obtain ⟨_, _, _, _, _, fport, _, _⟩ := f
    cases fport <;> rfl
  rw [fdArray_eq_of_read (.inl rfl) (read_setDataFrame_fopts s hopts), FrameDesc.dataFrame, hport]
  rfl

/-- A data frame taken in is laid out again. -/
theorem serData_setDataFrame_laysOut (cap : Byte) (s : State) {f : DataFrame} (h : f.wellFormed = true) :
    LaysOut (exec (.serData cap) (answeredOk [] (s.setDataFrame f))) cap f.bytes
      (answeredOk [] (s.setDataFrame f)) := by
  obtain ⟨-, hport, -⟩ := dataFrame_wellFormed_iff.1 h
  have hread : (s.setDataFrame f).read .pld 0 (BitVec.ofNat 8 f.payload.length).toNat = some f.payload :=
    read_setDataFrame_pld s (toNat_ofNat_pldLen h).symm
  have hout := serData_laysOut cap (s := answeredOk [] (s.setDataFrame f)) (hport.imp_left fun h0 => ?_) hread
  · have hframe : (answeredOk [] (s.setDataFrame f)).fd.dataFrame ((answeredOk [] (s.setDataFrame f)).fdArray .fopts
        (foptsLen (answeredOk [] (s.setDataFrame f)).fd.fctrl)) f.payload = f := dataFrame_setDataFrame s h
    rwa [hframe] at hout
  · show BitVec.ofNat 8 f.payload.length = 0
    rw [h0]
    rfl

theorem serData_of_parsed {cap : Byte} {s t : State} {b : List Byte} (hread : s.read .rx 0 s.rxLen.toNat = some b)
    (hok : t.status = .ok) (hlen : s.rxLen.toNat ≤ cap.toNat) (hcap : cap.toNat ≤ s.par.phyMax)
    (hp : exec .parseData s = .next t) :
    ∃ u, exec (.serData cap) t = .next u ∧ u.status = .ok ∧ u.txLen = s.rxLen
      ∧ u.read .tx 0 s.rxLen.toNat = some b := by
  have hb := length_of_read hread
  by_cases h12 : s.rxLen.toNat < 12
  case pos => exact (not_ok_of_failed (parseData_refuses_length (.inl h12)) nofun hp hok).elim
  by_cases hopts : s.rxLen.toNat < 12 + foptsLen (byteAt b 5)
  case pos =>
    exact (not_ok_of_failed (parseData_refuses_options (byteOf_of_read hread (by omega)) hopts) nofun hp hok).elim
  rw [parseData_accepts (hlen.trans hcap) hread (not_lt.1 hopts)] at hp
  cases hp
  have hfit : 12 + foptsLen (byteAt b 5) ≤ b.length := hb ▸ not_lt.1 hopts
  have h255 : b.length ≤ 255 := by
    have := s.rxLen.isLt
    omega
  have hout := serData_setDataFrame_laysOut cap s (dataFrame_wellFormed_ofBytes h255 hfit)
  rw [dataFrame_bytes_ofBytes hfit] at hout
  exact hout.again hb (by omega) hcap hlen

/-! ### The obligations -/

/-- Settles O20: each kind of frame on its own. -/
theorem parseThenSerialize : Obligations.ParseThenSerialize := fun _ _ _ _ hread hok hlen hcap =>
  ⟨serJoinreq_of_parsed hread hok hlen hcap, serRejoin_of_parsed hread hok hlen hcap,
    serJoinacc_of_parsed hread hok hlen hcap, serData_of_parsed hread hok hlen hcap⟩

theorem serRejoin_then_parse {cap : Byte} {s t : State} {msg : List Byte} (hok : t.status = .ok)
    (hread : t.read .tx 0 t.txLen.toNat = some msg) (ht : exec (.serRejoin cap) s = .next t) :
    ∃ v, exec .parseRejoin { t.write .rx 0 msg with rxLen := t.txLen } = .next v ∧ v.status = .ok ∧ v.fd = s.fd := by
  by_cases hty : 2 < s.fd.rejoinType.toNat
  case pos => exact (not_ok_of_failed (serRejoin_illegal cap hty) nofun ht hok).elim
  by_cases h1 : s.fd.rejoinType = 1
  case pos => exact ((serRejoin_laysOut_1 cap h1).received hok hread ht).parseRejoin_1 h1
  have h02 : s.fd.rejoinType = 0 ∨ s.fd.rejoinType = 2 := by bv_omega
  exact ((serRejoin_laysOut_02 cap h02).received hok hread ht).parseRejoin_02 h02

/-- `OK` says that the payload was read. -/
theorem serData_reads {cap : Byte} {s t : State} (hok : t.status = .ok) (ht : exec (.serData cap) s = .next t) :
    ∃ pl, s.read .pld 0 s.fd.pldLen.toNat = some pl := by
  rw [exec_serData, execSerData] at ht
  split at ht
  · exact (not_ok_of_failed (raise_eq_failedWith _ s) (by decide) ht hok).elim
  split at ht
  · exact (not_ok_of_failed (raise_eq_failedWith _ s) (by decide) ht hok).elim
  split at ht
  · exact (not_ok_of_failed (raise_eq_failedWith _ s) (by decide) ht hok).elim
  rcases orFault_cases (s.read .pld 0 s.fd.pldLen.toNat) (fun pl =>
    serialize cap (s.fd.dataFrame (s.fdArray .fopts (foptsLen s.fd.fctrl)) pl).bytes s) with ⟨-, h⟩ | ⟨pl, hpl, -⟩
  · rw [h] at ht
    cases ht
  · exact ⟨pl, hpl⟩

theorem serData_then_parse {cap : Byte} {s t : State} {msg : List Byte} (hok : t.status = .ok)
    (hread : t.read .tx 0 t.txLen.toNat = some msg) (ht : exec (.serData cap) s = .next t) :
    ∃ v, exec .parseData { t.write .rx 0 msg with rxLen := t.txLen } = .next v ∧ v.status = .ok
      ∧ v.fd = { s.fd with fport := if s.fd.fportPresent then s.fd.fport else 0 }
      ∧ v.read .fopts 0 (foptsLen s.fd.fctrl) = s.read .fopts 0 (foptsLen s.fd.fctrl)
      ∧ v.read .pld 0 s.fd.pldLen.toNat = s.read .pld 0 s.fd.pldLen.toNat := by
  by_cases hport : s.fd.pldLen = 0 ∨ s.fd.fportPresent = true
  case neg =>
    obtain ⟨h0, hf⟩ := not_or.1 hport
    exact (not_ok_of_failed (serData_noPort cap h0 (by simpa using hf)) nofun ht hok).elim
  obtain ⟨pl, hpl⟩ := serData_reads hok ht
  exact ((serData_laysOut cap hport hpl).received hok hread ht).parseData hport hpl

/-- Settles O19: what was laid out has been received, and every kind of frame received parses back. -/
theorem serializeThenParse : Obligations.SerializeThenParse := fun cap s _ _ hok hread =>
  ⟨fun ht => ((serJoinreq_laysOut cap s).received hok hread ht).parseJoinreq, serRejoin_then_parse hok hread,
    fun ht => ((serJoinacc_laysOut cap s).received hok hread ht).parseJoinacc, serData_then_parse hok hread⟩

/-- Settles O15: the frame of each command, under the capacity contract. -/
theorem serializeJoinFrames : Obligations.SerializeJoinFrames := by
  intro cap s
  refine ⟨(serJoinreq_laysOut cap s).contract, fun h => (serRejoin_laysOut_02 cap h).contract, fun h => ?rejoin1,
    serRejoin_illegal cap, fun h => ?noList, _, read_fdArray s (.inr rfl) 16, fdArray_length .., fun h => ?list⟩
  case rejoin1 => exact h ▸ (serRejoin_laysOut_1 cap h).contract
  case noList =>
    have hout := (serJoinacc_laysOut cap s).contract
    rw [laidOutList, h] at hout
    simpa [JoinAccept.bytes, JoinAccept.body, FrameDesc.joinAccept] using hout
  case list =>
    have hout := (serJoinacc_laysOut cap s).contract
    rw [laidOutList, h] at hout
    exact hout

/-- Settles O16: the payload without a port is refused, else the frame stands under the capacity contract. -/
theorem serializeDataFrame : Obligations.SerializeDataFrame := by
  intro cap s
  refine ⟨serData_noPort cap, _, read_fdArray s (.inl rfl) _, fdArray_length .., fun pl hport hread => ?_⟩
  have hout := (serData_laysOut cap hport hread).contract
  rw [DataFrame.bytes, DataFrame.body, show (s.fd.dataFrame (s.fdArray .fopts (foptsLen s.fd.fctrl)) pl).fport.toList
    = if s.fd.fportPresent then [s.fd.fport] else [] from port_toList s.fd] at hout
  exact hout

end Sys2Proof.Proofs.Serialize
end

section
/-! The Secure Element (41_security_engine.md R121 to R130): a sequence of calls succeeds or fails at a first call, and
each procedure that calls it makes the calls the claims name and gives the value they name. -/

namespace Sys2Proof.Proofs.SecureElement

open Sys2Proof Sys2Proof.Machine

/-! ### The state after calls -/

/-- The state after these calls on the Secure Element, whatever it answered, but for the keys stored. -/
def callsMade (calls : List Call) (s : State) : State := calls.foldl (fun s c => (seCall c s).2) s

@[simp] theorem callsMade_nil (s : State) : callsMade [] s = s := rfl

theorem callsMade_append (calls more : List Call) (s : State) :
    callsMade (calls ++ more) s = callsMade more (callsMade calls s) :=
  List.foldl_append ..

theorem callsMade_frame (calls : List Call) (s : State) : CallsOnly s (callsMade calls s) := by
  induction calls generalizing s with
  | nil => exact .refl s
  | cons c calls ih => exact (seCall_frame c s).trans (ih _)

theorem callsMade_trace (calls : List Call) (s : State) : (callsMade calls s).trace = s.trace ++ calls := by
  induction calls generalizing s with
  | nil => exact (List.append_nil _).symm
  | cons c calls ih => exact (ih _).trans (by rw [seCall_trace, List.append_assoc, List.singleton_append])

/-- Calls leave everything but the trace and the answers held ready. -/
theorem callsMade_eq (calls : List Call) (s : State) :
    callsMade calls s = { s with trace := s.trace ++ calls, script := (callsMade calls s).script } := by
  have h : _ = callsMade calls s := callsMade_frame calls s
  rw [callsMade_trace] at h
  exact h.symm

@[simp] theorem callsMade_par (calls : List Call) (s : State) : (callsMade calls s).par = s.par := by rw [callsMade_eq]

@[simp] theorem callsMade_fd (calls : List Call) (s : State) : (callsMade calls s).fd = s.fd := by rw [callsMade_eq]

@[simp] theorem callsMade_mem (calls : List Call) (s : State) : (callsMade calls s).mem = s.mem := by rw [callsMade_eq]

@[simp] theorem callsMade_rxLen (calls : List Call) (s : State) : (callsMade calls s).rxLen = s.rxLen := by
  rw [callsMade_eq]

@[simp] theorem callsMade_r (calls : List Call) (s : State) : (callsMade calls s).r = s.r := by rw [callsMade_eq]

@[simp] theorem callsMade_se (calls : List Call) (s : State) : (callsMade calls s).se = s.se := by rw [callsMade_eq]

@[simp] theorem callsMade_read (calls : List Call) (s : State) (b : Buf) (off n : Nat) :
    (callsMade calls s).read b off n = s.read b off n := by rw [State.read, callsMade_mem, State.read]

@[simp] theorem callsMade_fdArray (calls : List Call) (s : State) (b : Buf) (n : Nat) :
    (callsMade calls s).fdArray b n = s.fdArray b n := by simp only [State.fdArray, State.byteOf, callsMade_mem]

/-! ### Sequences of calls that succeed or fail -/

/-- The Secure Element accepts these calls and every one has a key. -/
def Succeeds (calls : List Call) (s : State) : Prop := SeAccepts calls s ∧ ¬ UsesEmptySlot calls s

theorem seAccepts_append (calls more : List Call) (s : State) :
    SeAccepts (calls ++ more) s ↔ SeAccepts calls s ∧ SeAccepts more (callsMade calls s) := by
  induction calls generalizing s with
  | nil => simp
  | cons c calls ih => simp only [List.cons_append, seAccepts_cons, ih, and_assoc]; rfl

theorem usesEmptySlot_append (calls more : List Call) (s : State) :
    UsesEmptySlot (calls ++ more) s ↔ UsesEmptySlot calls s ∨ UsesEmptySlot more s := by
  simp only [usesEmptySlot_iff, List.any_append, Bool.or_eq_true]

/-- Whether a slot is empty depends on the key slots alone. -/
theorem usesEmptySlot_congr {calls : List Call} {s s' : State}
    (h : ∀ c ∈ calls, ∀ slot, callSlot c = some slot → s'.se.get slot = s.se.get slot) :
    UsesEmptySlot calls s' ↔ UsesEmptySlot calls s := by
  constructor
  · rintro ⟨c, hc, slot, hslot, hempty⟩
    exact ⟨c, hc, slot, hslot, by rw [← h c hc slot hslot, hempty]⟩
  · rintro ⟨c, hc, slot, hslot, hempty⟩
    exact ⟨c, hc, slot, hslot, by rw [h c hc slot hslot, hempty]⟩

theorem usesEmptySlot_callsMade (calls made : List Call) (s : State) :
    UsesEmptySlot calls (callsMade made s) ↔ UsesEmptySlot calls s :=
  usesEmptySlot_congr fun _ _ _ _ => by rw [callsMade_se]

/-- A key stored changes nothing of what is accepted. -/
theorem seCall_with_se (c : Call) (s : State) (k : KeyStore) :
    seCall c { s with se := k } = ((seCall c s).1, { (seCall c s).2 with se := k }) := by
  unfold seCall
  dsimp only [State.log]
  split <;> simp_all

theorem seAccepts_with_se (calls : List Call) (s : State) (k : KeyStore) :
    SeAccepts calls { s with se := k } ↔ SeAccepts calls s := by
  induction calls generalizing s with
  | nil => exact Iff.rfl
  | cons c calls ih => rw [seAccepts_cons, seAccepts_cons, seCall_with_se, ih]

theorem callsMade_with_se (calls : List Call) (s : State) (k : KeyStore) :
    callsMade calls { s with se := k } = { callsMade calls s with se := k } := by
  induction calls generalizing s with
  | nil => rfl
  | cons c calls ih =>
    show callsMade calls (seCall c { s with se := k }).2 = _
    rw [seCall_with_se, ih]
    rfl

@[simp] theorem succeeds_nil (s : State) : Succeeds [] s := ⟨trivial, by rintro ⟨c, hc, -⟩; cases hc⟩

theorem succeeds_append (calls more : List Call) (s : State) :
    Succeeds (calls ++ more) s ↔ Succeeds calls s ∧ Succeeds more (callsMade calls s) := by
  rw [Succeeds, seAccepts_append, usesEmptySlot_append, not_or, Succeeds, Succeeds, usesEmptySlot_callsMade]
  tauto

/-- The first call to fail is the first after which the sequence has not succeeded. -/
theorem seFailsAt_iff {calls : List Call} {n : Nat} {s : State} :
    SeFailsAt calls n s ↔ n < calls.length ∧ Succeeds (calls.take n) s ∧ ¬ Succeeds (calls.take (n + 1)) s := by
  unfold SeFailsAt Succeeds
  tauto

theorem not_seFailsAt_nil {n : Nat} {s : State} : ¬ SeFailsAt [] n s := fun h => Nat.not_lt_zero _ h.1

/-- Two sequences, one after the other, fail in the first or, the first having succeeded, in the second. -/
theorem seFailsAt_append {calls more : List Call} {n : Nat} {s : State} (h : SeFailsAt (calls ++ more) n s) :
    SeFailsAt calls n s ∨ ∃ m, n = calls.length + m ∧ Succeeds calls s ∧ SeFailsAt more m (callsMade calls s) := by
  obtain ⟨hn, hok, hfail⟩ := seFailsAt_iff.1 h
  rcases Nat.lt_or_ge n calls.length with hlt | hge
  · rw [List.take_append_of_le_length hlt.le] at hok
    rw [List.take_append_of_le_length hlt] at hfail
    exact .inl (seFailsAt_iff.2 ⟨hlt, hok, hfail⟩)
  · obtain ⟨m, rfl⟩ := Nat.exists_eq_add_of_le hge
    rw [List.take_length_add_append, succeeds_append] at hok
    rw [Nat.add_assoc, List.take_length_add_append, succeeds_append] at hfail
    rw [List.length_append] at hn
    exact .inr ⟨m, rfl, hok.1, seFailsAt_iff.2 ⟨by omega, hok.2, fun hm => hfail ⟨hok.1, hm⟩⟩⟩

/-- A sequence that does not succeed has a first call that fails. -/
theorem exists_seFailsAt {calls : List Call} {s : State} (h : ¬ Succeeds calls s) : ∃ n, SeFailsAt calls n s := by
  induction calls using List.reverseRecOn with
  | nil => exact absurd (succeeds_nil s) h
  | append_singleton calls c ih =>
    by_cases hc : Succeeds calls s
    · exact ⟨calls.length, seFailsAt_iff.2 ⟨by simp, by simpa using hc, by rwa [List.take_of_length_le (by simp)]⟩⟩
    · obtain ⟨n, hn⟩ := ih hc
      obtain ⟨hlt, hok, hfail⟩ := seFailsAt_iff.1 hn
      refine ⟨n, seFailsAt_iff.2 ⟨by rw [List.length_append]; omega, ?_, ?_⟩⟩
      · rwa [List.take_append_of_le_length hlt.le]
      · rwa [List.take_append_of_le_length hlt]

/-! ### One call -/

theorem usesEmptySlot_singleton {c : Call} {slot : KeySlot} (hslot : callSlot c = some slot) (s : State) :
    UsesEmptySlot [c] s ↔ s.se.get slot = none := by
  simp [UsesEmptySlot, hslot]

theorem succeeds_singleton {c : Call} {slot : KeySlot} (hslot : callSlot c = some slot) (s : State) :
    Succeeds [c] s ↔ (seCall c s).1 = false ∧ ∃ k, s.se.get slot = some k := by
  rw [Succeeds, usesEmptySlot_singleton hslot, seAccepts_cons, ← Ne, Option.ne_none_iff_exists']
  simp

theorem seFailsAt_singleton {c : Call} {n : Nat} {s : State} (h : SeFailsAt [c] n s) : n = 0 ∧ ¬ Succeeds [c] s := by
  obtain ⟨hn, -, hfail⟩ := seFailsAt_iff.1 h
  obtain rfl : n = 0 := Nat.lt_one_iff.1 hn
  exact ⟨rfl, hfail⟩

/-! ### What a procedure that calls the Secure Element does -/

/-- The procedure makes these calls and gives `a`; at the first call that fails it ends. -/
structure SeRun {α : Type} (calls : List Call) (s : State) (r : Option α × State) (a : α) : Prop where
  succeeds : Succeeds calls s → r = (some a, callsMade calls s)
  fails : ∀ n, SeFailsAt calls n s → r = (none, callsMade (calls.take (n + 1)) s)

namespace SeRun

variable {α β : Type} {s : State}

theorem pure (a : α) (s : State) : SeRun [] s (some a, s) a := ⟨fun _ => rfl, fun _ h => (not_seFailsAt_nil h).elim⟩

theorem none_of_not_succeeds {calls : List Call} {r : Option α × State} {a : α} (h : SeRun calls s r a)
    (hno : ¬ Succeeds calls s) : r.1 = none := by
  obtain ⟨n, hn⟩ := exists_seFailsAt hno
  rw [h.fails n hn]

theorem seThen {calls more : List Call} {r : Option α × State} {a : α} {k : α → State → Option β × State} {b : β}
    (hr : SeRun calls s r a) (hk : SeRun more (callsMade calls s) (k a (callsMade calls s)) b) :
    SeRun (calls ++ more) s (Machine.seThen r k) b := by
  refine ⟨fun hok => ?_, fun n hn => ?_⟩
  · obtain ⟨h1, h2⟩ := (succeeds_append calls more s).1 hok
    rw [hr.succeeds h1, callsMade_append]
    exact hk.succeeds h2
  · rcases seFailsAt_append hn with h | ⟨m, rfl, h1, h2⟩
    · rw [hr.fails n h, List.take_append_of_le_length (Nat.succ_le_of_lt h.1)]
      rfl
    · rw [hr.succeeds h1, Nat.add_assoc, List.take_length_add_append, callsMade_append]
      exact hk.fails m h2

theorem map {calls : List Call} {r : Option α × State} {a : α} (f : α → β) (hr : SeRun calls s r a) :
    SeRun calls s (Machine.seThen r fun a s => (some (f a), s)) (f a) :=
  List.append_nil calls ▸ hr.seThen (pure (f a) _)

theorem of_eq {calls calls' : List Call} {r : Option α × State} {a a' : α} (h : SeRun calls s r a) (hc : calls = calls')
    (ha : a = a') : SeRun calls' s r a' := hc ▸ ha ▸ h

end SeRun

/-- A call that answers a value under the key in its slot. -/
theorem seRun_of_call {α : Type} {c : Call} {slot : KeySlot} (hslot : callSlot c = some slot) {s : State} {k : Key}
    (hk : ∀ x, s.se.get slot = some x → x = k) {r : Option α × State} {f : Key → α}
    (htrue : (seCall c s).1 = true → r = (none, (seCall c s).2))
    (hfalse : (seCall c s).1 = false → r = ((s.se.get slot).map f, (seCall c s).2)) : SeRun [c] s r (f k) := by
  refine ⟨fun hok => ?_, fun n hn => ?_⟩
  · obtain ⟨haccept, x, hx⟩ := (succeeds_singleton hslot s).1 hok
    rw [hfalse haccept, hx, hk x hx]
    rfl
  · obtain ⟨rfl, hfail⟩ := seFailsAt_singleton hn
    cases haccept : (seCall c s).1 with
    | true => exact htrue haccept
    | false =>
      cases hx : s.se.get slot with
      | none =>
        rw [hfalse haccept, hx]
        rfl
      | some x => exact (hfail ((succeeds_singleton hslot s).2 ⟨haccept, x, hx⟩)).elim

theorem seEcb_run {s : State} {slot : KeySlot} {k : Key} (hk : ∀ x, s.se.get slot = some x → x = k)
    (block : List Byte) : SeRun [.seEcb block slot] s (seEcb block slot s) (encrypted s.par k block) := by
  refine seRun_of_call rfl hk (f := fun k => encrypted s.par k block) (fun h => ?_) fun h => ?_
  all_goals
    unfold seEcb
    split
    · next e => simp_all
    · next s1 e =>
      have hse := seCall_se (.seEcb block slot) s
      have hpar := seCall_par (.seEcb block slot) s
      simp_all [seBlock_eq]

theorem seCmac_run {s : State} {slot : KeySlot} {k : Key} (hk : ∀ x, s.se.get slot = some x → x = k)
    (pre : Option (List Byte)) (data : List Byte) :
    SeRun [.seCmac pre data slot] s (seCmac pre data slot s) (tag32 s.par k pre data) := by
  refine seRun_of_call rfl hk (f := fun k => tag32 s.par k pre data) (fun h => ?_) fun h => ?_
  all_goals
    unfold seCmac
    split
    · next e => simp_all
    · next s1 e =>
      have hse := seCall_se (.seCmac pre data slot) s
      have hpar := seCall_par (.seCmac pre data slot) s
      simp_all [seTag_eq]

/-! ### How a command that calls the Secure Element ends -/

/-- The command makes these calls and goes on with `last`; at the first call that fails it answers `ERR_SE_FAILED`. -/
structure Ends (calls : List Call) (s : State) (o : Out) (last : State → Out) : Prop where
  succeeds : Succeeds calls s → o = last (callsMade calls s)
  fails : ∀ n, SeFailsAt calls n s → o = .next (failedWith .errSeFailed (callsMade (calls.take (n + 1)) s))

namespace Ends

variable {calls more : List Call} {s : State} {o : Out} {last : State → Out}

theorem nil (last : State → Out) (s : State) : Ends [] s (last s) last :=
  ⟨fun _ => rfl, fun _ h => (not_seFailsAt_nil h).elim⟩

theorem orSeFailed {α : Type} {r : Option α × State} {a : α} {k : α → State → Out} (hr : SeRun calls s r a)
    (hk : Ends more (callsMade calls s) (k a (callsMade calls s)) last) :
    Ends (calls ++ more) s (Machine.orSeFailed r k) last := by
  refine ⟨fun hok => ?_, fun n hn => ?_⟩
  · obtain ⟨h1, h2⟩ := (succeeds_append calls more s).1 hok
    rw [hr.succeeds h1, callsMade_append]
    exact hk.succeeds h2
  · rcases seFailsAt_append hn with h | ⟨m, rfl, h1, h2⟩
    · rw [hr.fails n h, List.take_append_of_le_length (Nat.succ_le_of_lt h.1)]
      rfl
    · rw [hr.succeeds h1, Nat.add_assoc, List.take_length_add_append, callsMade_append]
      exact hk.fails m h2

/-- The last calls of a command. -/
theorem orSeFailed_last {α : Type} {r : Option α × State} {a : α} {k : α → State → Out} (hr : SeRun calls s r a) :
    Ends calls s (Machine.orSeFailed r k) (k a) :=
  List.append_nil calls ▸ orSeFailed hr (nil (k a) _)

/-- A command cut at one of its calls has changed nothing. -/
theorem failed (h : Ends calls s o last) {n : Nat} (hn : SeFailsAt calls n s) :
    ∃ t, o = .next t ∧ { t with script := s.script }
      = { failedWith .errSeFailed s with trace := s.trace ++ calls.take (n + 1) } := by
  refine ⟨_, h.fails n hn, ?_⟩
  rw [callsMade_eq]
  rfl

end Ends

/-! ### The keystream (R128, R129) -/

/-- The exclusive or with a keystream that is long enough, byte by byte. -/
theorem xorBytes_eq_map {x ks : List Byte} (h : x.length ≤ ks.length) :
    xorBytes x ks = (List.range x.length).map fun j => x.getD j 0 ^^^ ks.getD j 0 := by
  refine List.ext_getElem (by simp [xorBytes, h]) fun j h1 h2 => ?_
  have hx : j < x.length := by simpa using h2
  have hks : j < ks.length := hx.trans_le h
  simp [xorBytes, hx, hks]

/-- The calls for `n` keystream blocks from index `i` on. -/
def keystreamCalls (slot : KeySlot) (dir : Byte) (addr fcnt : Word) (n i : Nat) : List Call :=
  (List.range n).map fun j => .seEcb (counterBlock dir addr fcnt (i + j)) slot

/-- The keystream they give. -/
def keystreamBytes (par : Params) (k : Key) (dir : Byte) (addr fcnt : Word) (n i : Nat) : List Byte :=
  (List.range n).flatMap fun j => encrypted par k (counterBlock dir addr fcnt (i + j))

theorem keystreamCalls_succ (slot : KeySlot) (dir : Byte) (addr fcnt : Word) (n i : Nat) :
    keystreamCalls slot dir addr fcnt (n + 1) i
      = [.seEcb (counterBlock dir addr fcnt i) slot] ++ keystreamCalls slot dir addr fcnt n (i + 1) := by
  simp [keystreamCalls, List.range_succ_eq_map, Function.comp_def, Nat.add_assoc, Nat.add_comm 1]

theorem keystreamBytes_succ (par : Params) (k : Key) (dir : Byte) (addr fcnt : Word) (n i : Nat) :
    keystreamBytes par k dir addr fcnt (n + 1) i
      = encrypted par k (counterBlock dir addr fcnt i) ++ keystreamBytes par k dir addr fcnt n (i + 1) := by
  simp [keystreamBytes, List.range_succ_eq_map, List.flatMap_map, Nat.add_assoc, Nat.add_comm 1]

theorem keystreamBytes_length (par : Params) (k : Key) (dir : Byte) (addr fcnt : Word) (n i : Nat) :
    (keystreamBytes par k dir addr fcnt n i).length = 16 * n := by
  induction n generalizing i with
  | zero => rfl
  | succ n ih => rw [keystreamBytes_succ, List.length_append, encrypted_length, ih]; omega

/-- Byte `j` of the keystream stands in block `j / 16`. -/
theorem keystreamBytes_getD (par : Params) (k : Key) (dir : Byte) (addr fcnt : Word) {n i j : Nat} (hj : j < 16 * n) :
    (keystreamBytes par k dir addr fcnt n i).getD j 0
      = (encrypted par k (counterBlock dir addr fcnt (i + j / 16))).getD (j % 16) 0 := by
  induction n generalizing i j with
  | zero => omega
  | succ n ih =>
    rw [keystreamBytes_succ]
    rcases Nat.lt_or_ge j 16 with hlt | hge
    · rw [List.getD_append _ _ _ _ (by simpa using hlt), Nat.div_eq_of_lt hlt, Nat.mod_eq_of_lt hlt, Nat.add_zero]
    · rw [List.getD_append_right _ _ _ _ (by simpa using hge), encrypted_length, ih (by omega),
        show i + 1 + (j - 16) / 16 = i + j / 16 by omega, show (j - 16) % 16 = j % 16 by omega]

theorem keystream_run {s : State} {slot : KeySlot} {k : Key} {n : Nat}
    (hk : n ≠ 0 → ∀ x, s.se.get slot = some x → x = k) (down : Bool) (addr fcnt : Word) (i : Nat) :
    SeRun (keystreamCalls slot (dirByte down) addr fcnt n i) s (keystream slot down addr fcnt n i s)
      (keystreamBytes s.par k (dirByte down) addr fcnt n i) := by
  induction n generalizing s i with
  | zero => exact .pure [] s
  | succ n ih =>
    rw [keystreamCalls_succ, keystreamBytes_succ]
    have hk := hk (Nat.succ_ne_zero n)
    refine (seEcb_run hk _).seThen ?_
    have hrest := ih (s := callsMade [.seEcb (counterBlock (dirByte down) addr fcnt i) slot] s)
      (fun _ => by rwa [callsMade_se]) (i + 1)
    rw [callsMade_par] at hrest
    exact hrest.map _

theorem payloadCalls_eq (slot : KeySlot) (dir : Byte) (addr fcnt : Word) (x : List Byte) :
    payloadCalls slot dir addr fcnt x = keystreamCalls slot dir addr fcnt ((x.length + 15) / 16) 1 := by
  simp only [payloadCalls, keystreamCalls, blockCount, Nat.add_comm 1]

theorem xorBytes_keystream (par : Params) (k : Key) (dir : Byte) (addr fcnt : Word) (x : List Byte) :
    xorBytes x (keystreamBytes par k dir addr fcnt ((x.length + 15) / 16) 1)
      = cryptedPayload par k dir addr fcnt x := by
  rw [xorBytes_eq_map (by rw [keystreamBytes_length]; omega)]
  refine List.map_congr_left fun j hj => ?_
  have hlt : j < x.length := List.mem_range.1 hj
  rw [keystreamBytes_getD _ _ _ _ _ (by omega), payloadByte, Nat.add_comm 1]

/-- `PayloadCrypt` makes one call per block begun and gives the string under the keystream. -/
theorem payloadCrypt_run {s : State} {slot : KeySlot} {k : Key} {x : List Byte}
    (hk : x ≠ [] → ∀ y, s.se.get slot = some y → y = k) (down : Bool) (addr fcnt : Word) :
    SeRun (payloadCalls slot (dirByte down) addr fcnt x) s (payloadCrypt slot down addr fcnt x s)
      (cryptedPayload s.par k (dirByte down) addr fcnt x) := by
  have hkey : (x.length + 15) / 16 ≠ 0 → ∀ y, s.se.get slot = some y → y = k := by
    refine fun h0 => hk ?_
    rintro rfl
    exact h0 rfl
  rw [payloadCalls_eq, ← xorBytes_keystream]
  exact (keystream_run hkey down addr fcnt 1).map _

/-- The calls for the options of a frame. -/
def foptsCalls (crypt : Prop) [Decidable crypt] (dir : Byte) (addr fcnt : Word) (f : List Byte) : List Call :=
  if crypt ∧ f ≠ [] then [.seEcb (counterBlock dir addr fcnt 0) .nwkSEncKey] else []

theorem cryptedFopts_nil (par : Params) (k : Key) (dir : Byte) (addr fcnt : Word) :
    cryptedFopts par k dir addr fcnt [] = [] := rfl

theorem foptsMaybeCrypt_run {s : State} {crypt : Bool} {k : Key} {f : List Byte} (hlen : f.length ≤ 15)
    (hk : crypt = true → f ≠ [] → ∀ x, s.se.get .nwkSEncKey = some x → x = k) (down : Bool) (addr fcnt : Word) :
    SeRun (foptsCalls (crypt = true) (dirByte down) addr fcnt f) s (foptsMaybeCrypt crypt down addr fcnt f s)
      (if crypt then cryptedFopts s.par k (dirByte down) addr fcnt f else f) := by
  unfold foptsCalls foptsMaybeCrypt
  by_cases h : crypt = true ∧ f ≠ []
  · rw [if_pos h, if_pos h, if_pos h.1]
    refine ((seEcb_run (hk h.1 h.2) _).map (xorBytes f)).of_eq rfl ?_
    exact xorBytes_eq_map (by rw [encrypted_length]; omega)
  · rw [if_neg h, if_neg h]
    refine (SeRun.pure f s).of_eq rfl ?_
    split
    · next hc => rw [not_not.1 fun hf => h ⟨hc, hf⟩, cryptedFopts_nil]
    · rfl

/-! ### The obligation -/

@[simp] theorem cryptedPayload_length (par : Params) (k : Key) (dir : Byte) (addr fcnt : Word) (x : List Byte) :
    (cryptedPayload par k dir addr fcnt x).length = x.length := by simp [cryptedPayload]

theorem cryptedPayload_cryptedPayload (par : Params) (k : Key) (dir : Byte) (addr fcnt : Word) (x : List Byte) :
    cryptedPayload par k dir addr fcnt (cryptedPayload par k dir addr fcnt x) = x := by
  refine List.ext_getElem (by simp [cryptedPayload]) fun j h1 h2 => ?_
  simp [cryptedPayload, payloadByte, h2]

theorem usesEmptySlot_payloadCalls {slot : KeySlot} {dir : Byte} {addr fcnt : Word} {x : List Byte} {s : State} :
    UsesEmptySlot (payloadCalls slot dir addr fcnt x) s ↔ s.se.get slot = none ∧ x ≠ [] := by
  have hcount : blockCount x ≠ 0 ↔ x ≠ [] := by
    rw [blockCount, ← List.length_pos_iff]
    omega
  rw [← hcount]
  constructor
  · rintro ⟨c, hc, slot', hslot, hempty⟩
    obtain ⟨j, hj, rfl⟩ := List.mem_map.1 hc
    cases hslot
    exact ⟨hempty, Nat.ne_zero_of_lt (List.mem_range.1 hj)⟩
  · rintro ⟨hempty, h0⟩
    exact ⟨_, List.mem_map_of_mem (List.mem_range.2 (Nat.pos_of_ne_zero h0)), slot, rfl, hempty⟩

theorem succeeds_payloadCalls {slot : KeySlot} {k : Key} {s : State} (hk : s.se.get slot = some k) {dir : Byte}
    {addr fcnt : Word} {x : List Byte} :
    Succeeds (payloadCalls slot dir addr fcnt x) s ↔ SeAccepts (payloadCalls slot dir addr fcnt x) s := by
  rw [Succeeds, usesEmptySlot_payloadCalls, hk]
  simp

/-- Settles O24: the calls of `PayloadCrypt` succeed or fail together with it. -/
theorem payloadCryptKeystream : Obligations.PayloadCryptKeystream := by
  intro slot down addr fcnt x s _ dir calls
  refine ⟨fun k hk haccept => ?accepted, fun hx => ?empty, fun k hk hrefuse => ?refused, fun hslot hx => ?noKey,
    fun k => cryptedPayload_cryptedPayload ..⟩
  case accepted =>
    have hrun := payloadCrypt_run (k := k) (x := x) (fun _ y hy => Option.some.inj (hy.symm.trans hk)) down addr fcnt
    refine ⟨_, hrun.succeeds ((succeeds_payloadCalls hk).2 haccept), ?_⟩
    rw [callsMade_eq]
    rfl
  case empty => rw [hx]; rfl
  case refused =>
    have hrun := payloadCrypt_run (k := k) (x := x) (fun _ y hy => Option.some.inj (hy.symm.trans hk)) down addr fcnt
    exact hrun.none_of_not_succeeds fun h => hrefuse ((succeeds_payloadCalls hk).1 h)
  case noKey =>
    have hrun := payloadCrypt_run (k := 0) (x := x) (fun _ y hy => by rw [hslot] at hy; cases hy) down addr fcnt
    exact hrun.none_of_not_succeeds fun h => h.2 (usesEmptySlot_payloadCalls.2 ⟨hslot, hx⟩)

end Sys2Proof.Proofs.SecureElement
end

section
/-! `SEC.UPLINK`, `SEC.JOINREQ` and `SEC.REJOIN` (41_security_engine.md R131, R133, R134): the refusals before any call,
the calls of each, and the frame that is laid out. -/

namespace Sys2Proof.Proofs.SecureUplink

open Sys2Proof Sys2Proof.Machine
open Sys2Proof.Proofs.FrameCodec Sys2Proof.Proofs.Serialize Sys2Proof.Proofs.SecureElement

/-! ### Which function each command runs -/

theorem exec_secUplink (counter : Word) (dr ch cap : Byte) (s : State) :
    exec (.secUplink counter dr ch cap) s = execSecUplink counter dr ch cap s := rfl

theorem exec_secJoinreq (cap : Byte) (s : State) : exec (.secJoinreq cap) s = execSecJoinreq cap s := rfl

theorem exec_secRejoin (cap : Byte) (s : State) : exec (.secRejoin cap) s = execSecRejoin cap s := rfl

/-! ### The MIC of an uplink (R126, R127, R130) -/

theorem setWidth_eq_extract (v : Word) : v.setWidth 16 = v.extractLsb' 0 16 := by
  rw [← BitVec.toNat_inj, BitVec.toNat_setWidth, BitVec.extractLsb'_toNat, Nat.shiftRight_zero]

/-- The calls for the MIC of an uplink. -/
def uplinkMicCalls (v : Variant) (a fcnt : Word) (msg : List Byte) (conf : Half) (dr ch : Byte) : List Call :=
  (if v = .v11 then [.seCmac (some (authBlock 0x00 dr ch a fcnt msg.length conf)) msg .sNwkSIntKey] else [])
    ++ [.seCmac (some (authBlock 0x00 0x00 0x00 a fcnt msg.length 0)) msg .fNwkSIntKey]

/-- The MIC of an uplink under the two network keys. -/
def uplinkTag (par : Params) (v : Variant) (kF kS : Key) (a fcnt : Word) (msg : List Byte) (conf : Half)
    (dr ch : Byte) : Word :=
  if v = .v11 then
    (tag32 par kF (some (authBlock 0x00 0x00 0x00 a fcnt msg.length 0)) msg).setWidth 16
      ++ (tag32 par kS (some (authBlock 0x00 dr ch a fcnt msg.length conf)) msg).setWidth 16
  else tag32 par kF (some (authBlock 0x00 0x00 0x00 a fcnt msg.length 0)) msg

theorem uplinkMic_run {s : State} {kF kS : Key} (hF : ∀ x, s.se.get .fNwkSIntKey = some x → x = kF)
    (hS : ∀ x, s.se.get .sNwkSIntKey = some x → x = kS) (v : Variant) (a fcnt : Word) (msg : List Byte) (conf : Half)
    (dr ch : Byte) :
    SeRun (uplinkMicCalls v a fcnt msg conf dr ch) s (uplinkMic v a fcnt msg conf dr ch s)
      (uplinkTag s.par v kF kS a fcnt msg conf dr ch) := by
  cases v with
  | v10 => exact seCmac_run hF _ _
  | v11 =>
    refine (seCmac_run hS _ _).seThen ?_
    refine ((seCmac_run (by rwa [callsMade_se]) _ _).map _).of_eq rfl ?_
    rw [callsMade_par, uplinkTag, if_pos rfl, setWidth_eq_extract, setWidth_eq_extract]
    rfl

/-! ### `SEC.UPLINK` (R131) -/

theorem secUplink_notJoined {s : State} (counter : Word) (dr ch cap : Byte) (h : s.r.joined = false) :
    exec (.secUplink counter dr ch cap) s = .next (failedWith .errNotJoined s) := by
  rw [exec_secUplink, execSecUplink, h]
  rfl

theorem secUplink_capacity {s : State} (counter : Word) (dr ch : Byte) {cap : Byte} (hj : s.r.joined = true)
    (h : cap.toNat = 0 ∨ s.par.phyMax < cap.toNat) :
    exec (.secUplink counter dr ch cap) s = .next (failedWith .errParam s) := by
  rw [exec_secUplink, execSecUplink, hj, capOk_eq_false_iff.2 h]
  rfl

theorem secUplink_smaller {s : State} {counter : Word} (dr ch : Byte) {cap : Byte} (hj : s.r.joined = true)
    (hcap : capOk s.par cap = true) (h : counter.toNat < s.r.fcntUp.toNat) :
    exec (.secUplink counter dr ch cap) s = .next (failedWith .failFcntSmaller s) := by
  rw [exec_secUplink, execSecUplink, hj, hcap, if_neg (by simp), if_neg (by simp), if_pos (BitVec.lt_def.2 h),
    raise_eq_failedWith]

theorem secUplink_noPort {s : State} {counter : Word} (dr ch : Byte) {cap : Byte} (hj : s.r.joined = true)
    (hcap : capOk s.par cap = true) (hcnt : s.r.fcntUp.toNat ≤ counter.toNat) (h0 : s.fd.pldLen ≠ 0)
    (hf : s.fd.fportPresent = false) :
    exec (.secUplink counter dr ch cap) s = .next (failedWith .errParam s) := by
  rw [exec_secUplink, execSecUplink, hj, hcap, if_neg (by simp), if_neg (by simp),
    if_neg (by rw [BitVec.lt_def]; omega), if_pos (c := s.fd.pldLen ≠ 0 ∧ _) ⟨h0, hf⟩, raise_eq_failedWith]

theorem secUplink_short {s : State} {counter : Word} (dr ch : Byte) {cap : Byte} (hj : s.r.joined = true)
    (hcap : capOk s.par cap = true) (hcnt : s.r.fcntUp.toNat ≤ counter.toNat)
    (hport : s.fd.pldLen = 0 ∨ s.fd.fportPresent = true) (h : cap.toNat < s.fd.dataLen) :
    exec (.secUplink counter dr ch cap) s = .next (failedWith .errBufSize s) := by
  rw [exec_secUplink, execSecUplink, hj, hcap, if_neg (by simp), if_neg (by simp),
    if_neg (by rw [BitVec.lt_def]; omega), if_neg (by rintro ⟨h0, hf⟩; simp_all), if_pos h, raise_eq_failedWith]

/-- Settles O26: one test after the other. -/
theorem secUplinkRefusals : Obligations.SecUplinkRefusals := by
  intro counter dr ch cap s run need
  exact ⟨secUplink_notJoined counter dr ch cap, secUplink_capacity counter dr ch,
    fun hj h1 h2 => secUplink_smaller dr ch hj (capOk_iff.2 ⟨h1, h2⟩),
    fun hj h1 h2 => secUplink_noPort dr ch hj (capOk_iff.2 ⟨h1, h2⟩),
    fun hj h1 h2 => secUplink_short dr ch hj (capOk_iff.2 ⟨h1, h2⟩)⟩

theorem uplinkConf_callsMade (calls : List Call) (s : State) : uplinkConf (callsMade calls s) = uplinkConf s := by
  simp only [uplinkConf, callsMade_fd, callsMade_r]

/-- What `SEC.UPLINK` does once its tests have passed. -/
theorem secUplink_ends {s : State} {counter : Word} (dr ch : Byte) {cap : Byte} {pl msg : List Byte}
    {kE kN kF kS : Key} (hj : s.r.joined = true) (hcap : capOk s.par cap = true)
    (hcnt : s.r.fcntUp.toNat ≤ counter.toNat) (hport : s.fd.pldLen = 0 ∨ s.fd.fportPresent = true)
    (hlen : s.fd.dataLen ≤ cap.toNat) (hread : s.read .pld 0 s.fd.pldLen.toNat = some pl)
    (hE : ∀ x, s.se.get (uplinkPayloadSlot s.fd.fport) = some x → x = kE)
    (hN : ∀ x, s.se.get .nwkSEncKey = some x → x = kN) (hF : ∀ x, s.se.get .fNwkSIntKey = some x → x = kF)
    (hS : ∀ x, s.se.get .sNwkSIntKey = some x → x = kS)
    (hmsg : uplinkMsg s.fd counter
      (if s.r.lwVariant = .v11 then
        cryptedFopts s.par kN 0x00 s.fd.devAddr counter (s.fdArray .fopts (foptsLen s.fd.fctrl))
       else s.fdArray .fopts (foptsLen s.fd.fctrl))
      (cryptedPayload s.par kE 0x00 s.fd.devAddr counter pl) = msg) :
    Ends (payloadCalls (uplinkPayloadSlot s.fd.fport) 0x00 s.fd.devAddr counter pl
        ++ foptsCalls (s.r.lwVariant = .v11) 0x00 s.fd.devAddr counter (s.fdArray .fopts (foptsLen s.fd.fctrl))
        ++ uplinkMicCalls s.r.lwVariant s.fd.devAddr counter msg (uplinkConf s) dr ch)
      s (exec (.secUplink counter dr ch cap) s)
      fun s' => done [] (commitUplink counter msg
        (uplinkTag s.par s.r.lwVariant kF kS s.fd.devAddr counter msg (uplinkConf s) dr ch) s') := by
  rw [exec_secUplink, execSecUplink, hj, hcap, if_neg (by simp), if_neg (by simp),
    if_neg (by rw [BitVec.lt_def]; omega), if_neg (by rintro ⟨h0, hf⟩; simp_all), if_neg (by omega), hread,
    orFault_some, List.append_assoc]
  refine .orSeFailed (payloadCrypt_run (fun _ => hE) false s.fd.devAddr counter) ?_
  simp only [callsMade_fdArray, callsMade_fd, callsMade_r]
  have hopts := foptsMaybeCrypt_run
    (s := callsMade (payloadCalls (uplinkPayloadSlot s.fd.fport) 0x00 s.fd.devAddr counter pl) s)
    (crypt := s.r.lwVariant == .v11) (k := kN) (f := s.fdArray .fopts (foptsLen s.fd.fctrl))
    (by rw [fdArray_length, foptsLen]; omega) (fun _ _ => by rwa [callsMade_se]) false s.fd.devAddr counter
  simp only [callsMade_par, beq_iff_eq] at hopts
  refine .orSeFailed hopts ?_
  simp only [uplinkConf_callsMade, callsMade_fd, callsMade_r]
  have hmic := uplinkMic_run
    (s := callsMade (foptsCalls (s.r.lwVariant = .v11) 0x00 s.fd.devAddr counter
        (s.fdArray .fopts (foptsLen s.fd.fctrl)))
      (callsMade (payloadCalls (uplinkPayloadSlot s.fd.fport) 0x00 s.fd.devAddr counter pl) s))
    (by rwa [callsMade_se, callsMade_se]) (by rwa [callsMade_se, callsMade_se]) s.r.lwVariant s.fd.devAddr counter msg
    (uplinkConf s) dr ch
  rw [callsMade_par, callsMade_par] at hmic
  subst hmsg
  exact .orSeFailed_last hmic

theorem uplinkMsg_eq (d : FrameDesc) (counter : Word) (fo ct : List Byte) :
    uplinkMsg d counter fo ct = [d.mhdr] ++ le32 d.devAddr ++ [d.fctrl] ++ le16 (counter.setWidth 16) ++ fo
      ++ (if d.fportPresent then [d.fport] else []) ++ ct := by
  rw [← port_toList]
  rfl

/-- The commit of a secured uplink. -/
theorem uplink_committed {calls : List Call} {s : State} {o : Out} {counter mic : Word} {msg : List Byte}
    (h : Ends calls s o fun s' => done [] (commitUplink counter msg mic s')) (hok : Succeeds calls s) :
    ∃ t, o = .next t
      ∧ { t with mem := s.mem, script := s.script } = { answeredOk [] s with
          fd := { s.fd with fcnt := counter.setWidth 16, mic := mic }
          txLen := BitVec.ofNat 8 (msg.length + 4)
          r := { s.r with fcntUp := counter }
          trace := s.trace ++ calls }
      ∧ Stores s t (only .tx (msg ++ le32 mic)) := by
  have hlen : msg.length + 4 = (msg ++ le32 mic).length := by rw [List.length_append, le32_length]
  refine ⟨_, h.succeeds hok, ?_, ?_⟩
  · rw [hlen, callsMade_eq]
    rfl
  · rw [callsMade_eq]
    exact stores_write s .tx (msg ++ le32 mic)

/-- Settles O25: the calls are those of `secUplink_ends`, and what follows them is the commit. -/
theorem secUplinkSecures : Obligations.SecUplinkSecures := by
  intro counter dr ch cap s pl f kE kN kF kS hj hcap1 hcap2 hcnt hport hlen hread hf a slotE v11 hE hN hF hS ct fo msg
    conf b0 b1 mic calls
  obtain rfl : s.fdArray .fopts (foptsLen s.fd.fctrl) = f := fdArray_eq_of_read (.inl rfl) hf
  have hcalls : payloadCalls slotE 0x00 a counter pl
      ++ foptsCalls (s.r.lwVariant = .v11) 0x00 a counter (s.fdArray .fopts (foptsLen s.fd.fctrl))
      ++ uplinkMicCalls s.r.lwVariant a counter msg conf dr ch = calls := by
    rw [foptsCalls, uplinkMicCalls, ← List.append_assoc]
  have hends := hcalls ▸ secUplink_ends (msg := msg) dr ch hj (capOk_iff.2 ⟨hcap1, hcap2⟩) hcnt hport hlen hread hE hN
    hF hS (uplinkMsg_eq ..)
  exact ⟨fun hok hne => uplink_committed hends ⟨hok, hne⟩, fun n => hends.failed⟩

/-! ### `SEC.JOINREQ` and `SEC.REJOIN` (R133, R134) -/

/-- A request whose other tests have passed: the length is tested, then the frame is laid out with its CMAC. -/
def Requests (o : Out) (cap : Byte) (msg : List Byte) (slot : KeySlot) (s : State) : Prop :=
  ∃ commit : Word → State → Out,
    (o = if cap.toNat < msg.length + 4 then raise .errBufSize s else orSeFailed (seCmac none msg slot s) commit)
    ∧ ∀ mic s', s'.fd = s.fd → commit mic s' = done [] (commitRequest msg mic s')

namespace Requests

variable {o : Out} {cap : Byte} {msg : List Byte} {slot : KeySlot} {s : State} {k : Key}

theorem short (h : Requests o cap msg slot s) (hlen : cap.toNat < msg.length + 4) :
    o = .next (failedWith .errBufSize s) := by
  obtain ⟨_, h, -⟩ := h
  rw [h, if_pos hlen, raise_eq_failedWith]

theorem ends (h : Requests o cap msg slot s) (hlen : msg.length + 4 ≤ cap.toNat)
    (hk : ∀ x, s.se.get slot = some x → x = k) :
    Ends [.seCmac none msg slot] s o fun s' => done [] (commitRequest msg (tag32 s.par k none msg) s') := by
  obtain ⟨commit, h, hcommit⟩ := h
  rw [h, if_neg (by omega)]
  have hlast := Ends.orSeFailed_last (k := commit) (seCmac_run hk none msg)
  refine ⟨fun hok => ?_, hlast.fails⟩
  rw [hlast.succeeds hok, hcommit _ _ (callsMade_fd ..)]

theorem failed (h : Requests o cap msg slot s) (hlen : msg.length + 4 ≤ cap.toNat)
    (hfail : SeFailsAt [.seCmac none msg slot] 0 s) :
    ∃ t, o = .next t ∧ { t with script := s.script }
      = { failedWith .errSeFailed s with trace := s.trace ++ [.seCmac none msg slot] } :=
  (h.ends (k := (s.se.get slot).getD 0) hlen fun _ hx => by rw [hx, Option.getD_some]).failed hfail

theorem secured (h : Requests o cap msg slot s) (hlen : msg.length + 4 ≤ cap.toNat) (hk : s.se.get slot = some k)
    (haccept : SeAccepts [.seCmac none msg slot] s) :
    ∃ t, o = .next t
      ∧ { t with mem := s.mem, script := s.script } = { answeredOk [] s with
          fd := { s.fd with mic := tag32 s.par k none msg }
          txLen := BitVec.ofNat 8 (msg.length + 4)
          trace := s.trace ++ [.seCmac none msg slot] }
      ∧ Stores s t (only .tx (msg ++ le32 (tag32 s.par k none msg))) := by
  have hok : Succeeds [.seCmac none msg slot] s := (succeeds_singleton rfl s).2 ⟨haccept.1, k, hk⟩
  refine ⟨_, (h.ends hlen fun x hx => Option.some.inj (hx.symm.trans hk)).succeeds hok, ?_, ?_⟩
  · rw [← le32_length (tag32 s.par k none msg), ← List.length_append, callsMade_eq]
    rfl
  · rw [callsMade_eq]
    exact stores_write s .tx _

end Requests

theorem secJoinreq_requests {cap : Byte} {s : State} (hcap : capOk s.par cap = true) :
    Requests (exec (.secJoinreq cap) s) cap s.fd.joinRequest.body .nwkKey s := by
  have hlen : s.fd.joinRequest.body.length + 4 = 23 := by simp [JoinRequest.body]
  rw [exec_secJoinreq, execSecJoinreq, hcap, ← hlen]
  exact ⟨_, rfl, fun mic s' hfd => by rw [hfd]⟩

theorem secRejoin_requests_1 {cap : Byte} {s : State} (hcap : capOk s.par cap = true) (h : s.fd.rejoinType = 1) :
    Requests (exec (.secRejoin cap) s) cap s.fd.rejoin1.body .jSIntKey s := by
  have hlen : s.fd.rejoin1.body.length + 4 = 24 := by simp [Rejoin1.body]
  rw [exec_secRejoin, execSecRejoin, hcap, if_neg (by simp), if_neg (by simp [h]), if_pos h, ← hlen]
  exact ⟨_, rfl, fun mic s' hfd => by rw [hfd]⟩

theorem secRejoin_requests_02 {cap : Byte} {s : State} (hcap : capOk s.par cap = true)
    (h : s.fd.rejoinType = 0 ∨ s.fd.rejoinType = 2) (hj : s.r.joined = true) :
    Requests (exec (.secRejoin cap) s) cap s.fd.rejoin02.body .sNwkSIntKey s := by
  have hlen : s.fd.rejoin02.body.length + 4 = 19 := by simp [Rejoin02.body]
  rw [exec_secRejoin, execSecRejoin, hcap, if_neg (by simp), if_neg (by bv_omega), if_neg (by bv_omega),
    if_neg (by simp [hj]), ← hlen]
  exact ⟨_, rfl, fun mic s' hfd => by rw [hfd]⟩

theorem secRejoin_notJoined {cap : Byte} {s : State} (hcap : capOk s.par cap = true)
    (h : s.fd.rejoinType = 0 ∨ s.fd.rejoinType = 2) (hj : s.r.joined = false) :
    exec (.secRejoin cap) s = .next (failedWith .errNotJoined s) := by
  rw [exec_secRejoin, execSecRejoin, hcap, if_neg (by simp), if_neg (by bv_omega), if_neg (by bv_omega), if_pos hj,
    raise_eq_failedWith]

theorem secRejoin_illegal {cap : Byte} {s : State} (hcap : capOk s.par cap = true) (h : 2 < s.fd.rejoinType.toNat) :
    exec (.secRejoin cap) s = .next (failedWith .errParam s) := by
  rw [exec_secRejoin, execSecRejoin, hcap, if_neg (by simp), if_pos h, raise_eq_failedWith]

theorem requests_capacity {cap : Byte} {s : State} (hcap : capOk s.par cap = false) :
    exec (.secJoinreq cap) s = .next (failedWith .errParam s)
      ∧ exec (.secRejoin cap) s = .next (failedWith .errParam s) := by
  rw [exec_secJoinreq, execSecJoinreq, exec_secRejoin, execSecRejoin, hcap]
  exact ⟨rfl, rfl⟩

/-- Settles O32: each request as `Requests` has it. -/
theorem secRequestsSecure : Obligations.SecRequestsSecure := by
  intro cap s k capLegal secured msgJoin msgRejoin1 msgRejoin02
  have hsecured : ∀ {i : Instr} {msg : List Byte} {slot : KeySlot},
      (capLegal → Requests (exec i s) cap msg slot s) → secured i msg slot := fun h =>
    ⟨fun hcap => (h hcap).short, fun hcap => (h hcap).failed, fun hcap => (h hcap).secured⟩
  refine ⟨by simp [msgJoin, msgRejoin1, msgRejoin02], fun h => requests_capacity ?_,
    hsecured fun h => secJoinreq_requests (capOk_iff.2 h), fun h1 => hsecured fun h => ?_,
    fun h02 hj => hsecured fun h => secRejoin_requests_02 (capOk_iff.2 h) h02 hj,
    fun h02 hj h => secRejoin_notJoined (capOk_iff.2 h) h02 hj, fun h2 h => secRejoin_illegal (capOk_iff.2 h) h2⟩
  · rw [← Bool.not_eq_true, capOk_iff]
    exact h
  · have hrun := secRejoin_requests_1 (capOk_iff.2 h) h1
    have hbody : s.fd.rejoin1.body = msgRejoin1 := by
      simp only [msgRejoin1, h1]
      rfl
    rwa [hbody] at hrun

end Sys2Proof.Proofs.SecureUplink
end

section
/-! `SEC.DOWNLINK` (41_security_engine.md R132): the refusals in the order tested, and the frame that is accepted. -/

namespace Sys2Proof.Proofs.SecureDownlink

open Sys2Proof Sys2Proof.Machine
open Sys2Proof.Proofs.FrameCodec Sys2Proof.Proofs.Serialize Sys2Proof.Proofs.SecureElement

theorem exec_secDownlink (ak : BitVec 3) (address : Word) (ck : BitVec 3) (cand : Word) (s : State) :
    exec (.secDownlink ak address ck cand) s = execSecDownlink ak address ck cand s := rfl

/-! ### The kinds (R132) -/

/-- The multicast entry of an address kind from 1 to 4. -/
def kindEntry (ak : BitVec 3) : BitVec 2 := BitVec.ofNat 2 (ak.toNat - 1)

/-- The address kind, the stream and the multicast entry fit together. -/
def KindsFit (ak ck : BitVec 3) (mc : Vector McEntry 4) : Prop :=
  ak.toNat ≤ 4 ∧ (ak = 0 → ck.toNat ≤ 1) ∧ (ak ≠ 0 → ck.toNat = ak.toNat + 1 ∧ (at4 mc (kindEntry ak)).valid = true)

theorem addrEntry_zero : addrEntry 0 = none := rfl

theorem addrEntry_of_ne : ∀ ak : BitVec 3, ak ≠ 0 → addrEntry ak = some (kindEntry ak) := by decide

/-- The stream of an entry is the one numbered behind its address kind. -/
theorem eq_mcStream_iff : ∀ ak ck : BitVec 3, ak ≠ 0 → ak.toNat ≤ 4 →
    (ck = mcStream (kindEntry ak) ↔ ck.toNat = ak.toNat + 1) := by decide

theorem downlinkKindOk_iff {ak ck : BitVec 3} {mc : Vector McEntry 4} :
    downlinkKindOk ak ck mc = true ↔ KindsFit ak ck mc := by
  unfold downlinkKindOk KindsFit
  by_cases hout : 4 < ak.toNat ∨ 5 < ck.toNat
  · rw [if_pos hout]
    refine ⟨nofun, fun ⟨h4, h0, h1⟩ => ?_⟩
    by_cases hak : ak = 0
    · have := h0 hak
      omega
    · have := (h1 hak).1
      omega
  · rw [if_neg hout]
    by_cases hak : ak = 0
    · subst hak
      show decide (ck.toNat ≤ 1) = true ↔ _
      simp
    · rw [addrEntry_of_ne ak hak]
      have := eq_mcStream_iff ak ck hak (by omega)
      simp only [Bool.and_eq_true, decide_eq_true_eq, this]
      exact ⟨fun h => ⟨by omega, fun h0 => absurd h0 hak, fun _ => h⟩, fun h => h.2.2 hak⟩

/-! ### The frame and its slots -/

/-- The slot of the MIC. -/
def micSlot (ak : BitVec 3) : KeySlot := if ak = 0 then .sNwkSIntKey else .mcNwkSKey (kindEntry ak)

theorem downlinkMicSlot_eq (ak : BitVec 3) : downlinkMicSlot (addrEntry ak) = micSlot ak := by
  unfold micSlot
  split
  · next h => rw [h]; rfl
  · next h => rw [addrEntry_of_ne ak h]; rfl

/-- The slot of the payload. -/
def payloadSlot (ak : BitVec 3) (port0 : Prop) [Decidable port0] : KeySlot :=
  if ak = 0 then (if port0 then .nwkSEncKey else .appSKey)
  else (if port0 then .mcNwkSKey (kindEntry ak) else .mcAppSKey (kindEntry ak))

theorem downlinkPayloadSlot_eq (ak : BitVec 3) {port0 : Prop} [Decidable port0] {p : Bool} (hp : p = true ↔ port0) :
    downlinkPayloadSlot (addrEntry ak) p = payloadSlot ak port0 := by
  have hp' : p = decide port0 := by rw [Bool.eq_iff_iff, hp, decide_eq_true_iff]
  unfold payloadSlot
  split
  · next h => rw [h, hp', addrEntry_zero]; simp [downlinkPayloadSlot]
  · next h => rw [addrEntry_of_ne ak h, hp']; simp [downlinkPayloadSlot]

/-! ### The refusals before any call -/

section
variable {ak ck : BitVec 3} {address cand : Word} {s : State} {b : List Byte}

theorem secDownlink_kinds (h : ¬ KindsFit ak ck s.mc) :
    exec (.secDownlink ak address ck cand) s = .next (failedWith .errParam s) := by
  rw [exec_secDownlink, execSecDownlink, Bool.eq_false_iff.2 fun hk => h (downlinkKindOk_iff.1 hk)]
  rfl

theorem secDownlink_notJoined (h : KindsFit ak ck s.mc) (hak : ak = 0) (hj : s.r.joined = false) :
    exec (.secDownlink ak address ck cand) s = .next (failedWith .errNotJoined s) := by
  rw [exec_secDownlink, execSecDownlink, downlinkKindOk_iff.2 h, if_neg (by simp), if_pos (c := ak = 0 ∧ _) ⟨hak, hj⟩,
    raise_eq_failedWith]

/-- What follows the counter tests: the MIC, then the decryption, then the commit. -/
def verifyAndDecrypt (ak : BitVec 3) (address : Word) (ck : BitVec 3) (cand : Word) (s : State) (b : List Byte)
    (f : DataFrame) : Out :=
  orSeFailed (downlinkMic address cand (b.take (s.rxLen.toNat - 4))
    (downlinkConf (s.r.lwVariant == .v11 && ak == 0) f.fctrl s.r) (downlinkMicSlot (addrEntry ak)) s) fun mic s1 =>
  if mic ≠ f.mic then raise .failMic s1
  else
    orSeFailed (payloadCrypt (downlinkPayloadSlot (addrEntry ak) (f.fport == some 0)) true address cand f.payload s1)
      fun pt s2 =>
    orSeFailed (foptsMaybeCrypt (s.r.lwVariant == .v11 && ak == 0) true address cand f.fopts s2) fun fo s3 =>
    done (le32 cand ++ [bitByte (ak != 0)]) (commitDownlink ck cand f fo pt s3)

/-- The tests of the frame's address and counter, in order. -/
def downlinkChecks (ak : BitVec 3) (address : Word) (ck : BitVec 3) (cand : Word) (s : State) (b : List Byte)
    (f : DataFrame) : Out :=
  if f.addr ≠ address then raise .failAddress s
  else if cand.setWidth 16 ≠ f.fcnt then raise .errParam s
  else if streamValid s.r.fcntValid ck ∧ cand = lastFcnt s.r ck then raise .failFcntDuplicated s
  else if streamValid s.r.fcntValid ck ∧ cand < lastFcnt s.r ck then raise .failFcntSmaller s
  else verifyAndDecrypt ak address ck cand s b f

theorem secDownlink_eq (h : KindsFit ak ck s.mc) (hj : ak = 0 → s.r.joined = true) :
    exec (.secDownlink ak address ck cand) s = withDataFrame s (downlinkChecks ak address ck cand s) := by
  rw [exec_secDownlink, execSecDownlink, downlinkKindOk_iff.2 h, if_neg (by simp),
    if_neg (by rintro ⟨hak, hno⟩; simp [hj hak] at hno)]
  rfl

theorem withDataFrame_length {k : List Byte → DataFrame → Out}
    (h : s.rxLen.toNat < 12 ∨ s.par.phyMax < s.rxLen.toNat) :
    withDataFrame s k = .next (failedWith .errParse s) := by
  rw [withDataFrame, if_pos (h.imp_right rxEnds_eq_true.2), raise_eq_failedWith]

theorem withDataFrame_options {k : List Byte → DataFrame → Out} (h12 : 12 ≤ s.rxLen.toNat)
    (hread : s.read .rx 0 s.rxLen.toNat = some b) (h : s.rxLen.toNat < 12 + foptsLen (byteAt b 5)) :
    withDataFrame s k = .next (failedWith .errParse s) := by
  rw [withDataFrame, byteOf_of_read hread (by omega), orFault_some, if_pos h, raise_eq_failedWith, ite_self]

theorem withDataFrame_frame {k : List Byte → DataFrame → Out} (hcap : s.rxLen.toNat ≤ s.par.phyMax)
    (hread : s.read .rx 0 s.rxLen.toNat = some b) (hfit : 12 + foptsLen (byteAt b 5) ≤ s.rxLen.toNat) :
    withDataFrame s k = k b (.ofBytes b) := by
  rw [withDataFrame, if_neg (by rw [rxEnds_eq_true]; omega), byteOf_of_read hread (by omega), orFault_some,
    if_neg (by omega), show s.frame = some b from hread, orFault_some]

end

section
variable {ak ck : BitVec 3} {address cand : Word} {s : State} {b : List Byte} {f : DataFrame}

theorem downlinkChecks_address (h : f.addr ≠ address) :
    downlinkChecks ak address ck cand s b f = .next (failedWith .failAddress s) := by
  rw [downlinkChecks, if_pos h, raise_eq_failedWith]

theorem downlinkChecks_candidate (ha : f.addr = address) (h : cand.setWidth 16 ≠ f.fcnt) :
    downlinkChecks ak address ck cand s b f = .next (failedWith .errParam s) := by
  rw [downlinkChecks, if_neg (not_not.2 ha), if_pos h, raise_eq_failedWith]

theorem downlinkChecks_duplicate (ha : f.addr = address) (hc : cand.setWidth 16 = f.fcnt)
    (hv : streamValid s.r.fcntValid ck = true) (h : cand = lastFcnt s.r ck) :
    downlinkChecks ak address ck cand s b f = .next (failedWith .failFcntDuplicated s) := by
  rw [downlinkChecks, if_neg (not_not.2 ha), if_neg (not_not.2 hc), if_pos ⟨hv, h⟩, raise_eq_failedWith]

theorem downlinkChecks_smaller (ha : f.addr = address) (hc : cand.setWidth 16 = f.fcnt)
    (hv : streamValid s.r.fcntValid ck = true) (h : cand.toNat < (lastFcnt s.r ck).toNat) :
    downlinkChecks ak address ck cand s b f = .next (failedWith .failFcntSmaller s) := by
  rw [downlinkChecks, if_neg (not_not.2 ha), if_neg (not_not.2 hc),
    if_neg (by rintro ⟨-, he⟩; rw [he] at h; exact Nat.lt_irrefl _ h), if_pos ⟨hv, BitVec.lt_def.2 h⟩,
    raise_eq_failedWith]

theorem downlinkChecks_passed (ha : f.addr = address) (hc : cand.setWidth 16 = f.fcnt)
    (h : streamValid s.r.fcntValid ck = true → (lastFcnt s.r ck).toNat < cand.toNat) :
    downlinkChecks ak address ck cand s b f = verifyAndDecrypt ak address ck cand s b f := by
  rw [downlinkChecks, if_neg (not_not.2 ha), if_neg (not_not.2 hc), if_neg, if_neg]
  · rintro ⟨hv, hlt⟩
    have := h hv
    rw [BitVec.lt_def] at hlt
    omega
  · rintro ⟨hv, he⟩
    have := h hv
    rw [he] at this
    omega

end

/-! ### The calls of a frame that has passed the tests -/

section
variable {ak ck : BitVec 3} {address cand : Word} {s : State} {b : List Byte} {f : DataFrame} {conf : Half}
  {slotE : KeySlot} {v11u : Prop} [Decidable v11u] {kI kE kN : Key}

/-- The call for the MIC of a downlink. -/
def micCall (ak : BitVec 3) (address cand : Word) (b : List Byte) (conf : Half) : Call :=
  .seCmac (some (authBlock 0x01 0x00 0x00 address cand (b.length - 4) conf)) (b.take (b.length - 4)) (micSlot ak)

/-- The MIC under the network key. -/
def downlinkTag (par : Params) (kI : Key) (address cand : Word) (b : List Byte) (conf : Half) : Word :=
  tag32 par kI (some (authBlock 0x01 0x00 0x00 address cand (b.length - 4) conf)) (b.take (b.length - 4))

theorem downlinkMic_run (hI : ∀ x, s.se.get (micSlot ak) = some x → x = kI) :
    SeRun [micCall ak address cand b conf] s
      (downlinkMic address cand (b.take (b.length - 4)) conf (downlinkMicSlot (addrEntry ak)) s)
      (downlinkTag s.par kI address cand b conf) := by
  have hlen : (b.take (b.length - 4)).length = b.length - 4 := by
    rw [List.length_take]
    omega
  rw [downlinkMicSlot_eq, downlinkMic, micCall, downlinkTag, hlen]
  exact seCmac_run hI _ _

/-- The calls of the decryption. -/
def decryptCalls (slotE : KeySlot) (v11u : Prop) [Decidable v11u] (address cand : Word) (f : DataFrame) : List Call :=
  payloadCalls slotE 0x01 address cand f.payload ++ foptsCalls v11u 0x01 address cand f.fopts

theorem verifyAndDecrypt_micFails (hlen : b.length = s.rxLen.toNat)
    (hI : ∀ x, s.se.get (micSlot ak) = some x → x = kI)
    (hconf : downlinkConf (s.r.lwVariant == .v11 && ak == 0) f.fctrl s.r = conf)
    (hmic : downlinkTag s.par kI address cand b conf ≠ f.mic) :
    Ends [micCall ak address cand b conf] s (verifyAndDecrypt ak address ck cand s b f) (raise .failMic) := by
  subst hconf
  rw [verifyAndDecrypt, ← hlen]
  have hrun : SeRun _ s _ (downlinkTag s.par kI address cand b _) :=
    downlinkMic_run (conf := downlinkConf (s.r.lwVariant == .v11 && ak == 0) f.fctrl s.r) hI
  exact ⟨fun hok => ((Ends.orSeFailed_last hrun).succeeds hok).trans (if_pos hmic), (Ends.orSeFailed_last hrun).fails⟩

theorem verifyAndDecrypt_ends (hlen : b.length = s.rxLen.toNat) (hopts : f.fopts.length ≤ 15)
    (hI : ∀ x, s.se.get (micSlot ak) = some x → x = kI)
    (hE : f.payload ≠ [] → ∀ x, s.se.get slotE = some x → x = kE)
    (hN : v11u → f.fopts ≠ [] → ∀ x, s.se.get .nwkSEncKey = some x → x = kN)
    (hconf : downlinkConf (s.r.lwVariant == .v11 && ak == 0) f.fctrl s.r = conf)
    (hslot : downlinkPayloadSlot (addrEntry ak) (f.fport == some 0) = slotE)
    (hv : (s.r.lwVariant == .v11 && ak == 0) = true ↔ v11u)
    (hmic : downlinkTag s.par kI address cand b conf = f.mic) :
    Ends ([micCall ak address cand b conf] ++ decryptCalls slotE v11u address cand f) s
      (verifyAndDecrypt ak address ck cand s b f) fun s' =>
        done (le32 cand ++ [bitByte (ak != 0)]) (commitDownlink ck cand f
          (if v11u then cryptedFopts s.par kN 0x01 address cand f.fopts else f.fopts)
          (cryptedPayload s.par kE 0x01 address cand f.payload) s') := by
  subst hconf hslot
  rw [verifyAndDecrypt, ← hlen]
  refine .orSeFailed (downlinkMic_run hI) ?_
  rw [if_neg (not_not.2 hmic)]
  have hpayload := payloadCrypt_run
    (s := callsMade [micCall ak address cand b (downlinkConf (s.r.lwVariant == .v11 && ak == 0) f.fctrl s.r)] s)
    (x := f.payload) (k := kE) (by rwa [callsMade_se]) true address cand
  rw [callsMade_par] at hpayload
  refine .orSeFailed hpayload ?_
  have hfopts := foptsMaybeCrypt_run
    (s := callsMade (payloadCalls (downlinkPayloadSlot (addrEntry ak) (f.fport == some 0)) 0x01 address cand f.payload)
      (callsMade [micCall ak address cand b (downlinkConf (s.r.lwVariant == .v11 && ak == 0) f.fctrl s.r)] s))
    (crypt := s.r.lwVariant == .v11 && ak == 0) (k := kN) hopts
    (by rw [callsMade_se, callsMade_se, hv]; exact hN) true address cand
  simp only [callsMade_par, hv] at hfopts
  exact .orSeFailed_last hfopts

/-- A frame cut at one of its calls: the MIC's or, the MIC having matched, one of the decryption. -/
theorem verifyAndDecrypt_failed {n : Nat} (hlen : b.length = s.rxLen.toNat) (hopts : f.fopts.length ≤ 15)
    (hI : ∀ x, s.se.get (micSlot ak) = some x → x = kI)
    (hconf : downlinkConf (s.r.lwVariant == .v11 && ak == 0) f.fctrl s.r = conf)
    (hslot : downlinkPayloadSlot (addrEntry ak) (f.fport == some 0) = slotE)
    (hv : (s.r.lwVariant == .v11 && ak == 0) = true ↔ v11u)
    (hmic : 1 ≤ n → downlinkTag s.par kI address cand b conf = f.mic)
    (hn : SeFailsAt ([micCall ak address cand b conf] ++ decryptCalls slotE v11u address cand f) n s) :
    ∃ t, verifyAndDecrypt ak address ck cand s b f = .next t ∧ { t with script := s.script }
      = { failedWith .errSeFailed s with trace := s.trace
            ++ ([micCall ak address cand b conf] ++ decryptCalls slotE v11u address cand f).take (n + 1) } := by
  by_cases hmatch : downlinkTag s.par kI address cand b conf = f.mic
  · have hkey : ∀ slot x, s.se.get slot = some x → x = (s.se.get slot).getD 0 := fun _ _ hx => by
      rw [hx, Option.getD_some]
    exact (verifyAndDecrypt_ends hlen hopts hI (fun _ => hkey slotE) (fun _ _ => hkey .nwkSEncKey) hconf hslot hv
      hmatch).failed hn
  · obtain rfl : n = 0 := by
      by_contra h0
      exact hmatch (hmic (Nat.pos_of_ne_zero h0))
    rcases seFailsAt_append hn with h | ⟨m, hm, -⟩
    · exact (verifyAndDecrypt_micFails hlen hI hconf hmatch).failed h
    · rw [List.length_singleton] at hm
      omega

/-- The commit of an accepted downlink. -/
theorem downlink_committed {calls : List Call} {o : Out} {res fo pt : List Byte}
    (h : Ends calls s o fun s' => done res (commitDownlink ck cand f fo pt s')) (hok : Succeeds calls s) :
    ∃ t, o = .next t
      ∧ { t with mem := s.mem, script := s.script } = { answeredOk res s with
          fd := (s.setDataFrame { f with fopts := fo, payload := pt }).fd
          r := { setLastFcnt s.r ck cand with
                  fcntValid := setValid s.r.fcntValid ck, lastDownFcnt := cand, adrAckCnt := 0 }
          trace := s.trace ++ calls }
      ∧ Stores s t (fun d => if d = .fopts then fo else only .pld pt d) := by
  refine ⟨_, h.succeeds hok, ?_, ?_⟩
  · rw [callsMade_eq]
    rfl
  · rw [callsMade_eq]
    exact stores_write_write s fo pt nofun

end

/-! ### The obligations -/

theorem port0_iff (b : List Byte) :
    ((DataFrame.ofBytes b).fport == some 0) = true
      ↔ 1 ≤ b.length - 12 - foptsLen (byteAt b 5) ∧ byteAt b (8 + foptsLen (byteAt b 5)) = 0 := by
  simp only [DataFrame.ofBytes, beq_iff_eq]
  split
  · next h => simp [h]
  · next h =>
    rw [Option.some_inj]
    exact ⟨fun h0 => ⟨Nat.pos_of_ne_zero h, h0⟩, And.right⟩

theorem fopts_length_ofBytes {b : List Byte} (h : 12 + foptsLen (byteAt b 5) ≤ b.length) :
    (DataFrame.ofBytes b).fopts.length = foptsLen (byteAt b 5) :=
  slice_length (by omega)

theorem fopts_length_le {b : List Byte} (h : 12 + foptsLen (byteAt b 5) ≤ b.length) :
    (DataFrame.ofBytes b).fopts.length ≤ 15 := by
  rw [fopts_length_ofBytes h, foptsLen]
  omega

/-- The options are encrypted when there are any. -/
theorem foptsCalls_of_length {crypt : Prop} [Decidable crypt] {dir : Byte} {addr fcnt : Word} {f : List Byte} {n : Nat}
    (h : f.length = n) : foptsCalls crypt dir addr fcnt f
      = if crypt ∧ n ≠ 0 then [.seEcb (counterBlock dir addr fcnt 0) .nwkSEncKey] else [] :=
  if_congr (and_congr Iff.rfl (by rw [← h, ← Nat.pos_iff_ne_zero, List.length_pos_iff])) rfl rfl

/-- Settles O29: the tests before the calls, then `verifyAndDecrypt` cut at a call or with a MIC that does not match. -/
theorem secDownlinkRefusals : Obligations.SecDownlinkRefusals := by
  intro ak address ck cand s run h kinds
  refine ⟨secDownlink_kinds, secDownlink_notJoined, fun hk hj hlen => ?_, fun b hk hj h12 hcap hread => ?_⟩
  · exact (secDownlink_eq hk hj).trans (withDataFrame_length hlen)
  have hlen := length_of_read hread
  have hrun : run = withDataFrame s (downlinkChecks ak address ck cand s) := secDownlink_eq hk hj
  intro addr fcnt
  refine ⟨fun hopts => hrun.trans (withDataFrame_options h12 hread hopts), fun hfit => ?_⟩
  replace hrun : run = downlinkChecks ak address ck cand s b (.ofBytes b) :=
    hrun.trans (withDataFrame_frame hcap hread hfit)
  refine ⟨fun ha => hrun.trans (downlinkChecks_address ha), fun ha hc => hrun.trans (downlinkChecks_candidate ha hc),
    fun ha hc hv he => hrun.trans (downlinkChecks_duplicate ha hc hv he),
    fun ha hc hv hlt => hrun.trans (downlinkChecks_smaller ha hc hv hlt), fun kI n ha hc hgt => ?_⟩
  replace hrun := hrun.trans (downlinkChecks_passed ha hc hgt)
  rw [← hlen]
  intro optLen rem port0 v11u slotE slotI conf msg b0 mic calls hI
  have hconf : downlinkConf (s.r.lwVariant == .v11 && ak == 0) (byteAt b 5) s.r = conf := by
    simp only [downlinkConf, ackBit, Bool.and_eq_true, beq_iff_eq, and_assoc]
    rfl
  have hcalls : [micCall ak address cand b conf] ++ decryptCalls slotE v11u address cand (.ofBytes b) = calls := by
    rw [decryptCalls, foptsCalls_of_length (fopts_length_ofBytes (hlen ▸ hfit)), ← List.append_assoc]
    rfl
  refine ⟨fun hfails hmic => ?_, fun hI0 haccept hmic => ?_⟩
  · rw [hrun, ← hcalls]
    exact verifyAndDecrypt_failed hlen (fopts_length_le (hlen ▸ hfit)) hI hconf
      (downlinkPayloadSlot_eq ak (port0_iff b)) (by simp [v11u]) hmic (hcalls ▸ hfails)
  · obtain ⟨k, hk⟩ := Option.ne_none_iff_exists'.1 hI0
    have hends := verifyAndDecrypt_micFails (ck := ck) (f := .ofBytes b) hlen hI hconf hmic
    rw [hrun]
    refine ⟨_, hends.succeeds ((succeeds_singleton rfl s).2 ⟨haccept.1, k, hk⟩), ?_⟩
    rw [callsMade_eq]
    rfl

theorem usesEmptySlot_foptsCalls {crypt : Prop} [Decidable crypt] {dir : Byte} {addr fcnt : Word} {f : List Byte}
    {s : State} :
    UsesEmptySlot (foptsCalls crypt dir addr fcnt f) s ↔ s.se.get .nwkSEncKey = none ∧ crypt ∧ f ≠ [] := by
  unfold foptsCalls
  split
  · next h => rw [usesEmptySlot_singleton rfl, and_iff_left h]
  · next h => exact ⟨fun he => absurd he (succeeds_nil s).2, fun he => absurd he.2 h⟩

/-- The answer says whether the frame was multicast. -/
theorem multicastByte (ak : BitVec 3) : bitByte (ak != 0) = if ak = 0 then 0 else 1 := by
  by_cases h : ak = 0 <;> simp [h, bitByte]

/-- The registers an accepted frame is taken into, in the words of R132. -/
theorem setDataFrame_fd_ofBytes (s : State) {b fo pt : List Byte} (hfit : 12 + foptsLen (byteAt b 5) ≤ b.length)
    (hpt : pt.length = (DataFrame.ofBytes b).payload.length) :
    (s.setDataFrame { DataFrame.ofBytes b with fopts := fo, payload := pt }).fd = { s.fd with
      mhdr := byteAt b 0, devAddr := (DataFrame.ofBytes b).addr, fctrl := byteAt b 5,
      fcnt := (DataFrame.ofBytes b).fcnt, fportPresent := decide (1 ≤ portAndPayloadLen b),
      fport := if 1 ≤ portAndPayloadLen b then byteAt b (8 + foptsLen (byteAt b 5)) else 0,
      pldLen := BitVec.ofNat 8 (portAndPayloadLen b - 1), mic := (DataFrame.ofBytes b).mic } := by
  obtain ⟨hpresent, hport⟩ := dataFrame_fport_ofBytes b
  rw [← hpresent, ← hport, ← dataFrame_payload_length_ofBytes hfit, ← hpt]
  rfl

/-- Settles O28: the calls are those of `verifyAndDecrypt_ends`, and what follows them is the commit. -/
theorem secDownlinkAccepts : Obligations.SecDownlinkAccepts := by
  intro ak address ck cand s b kI kE kN h0 h4 h1 hj hcap hread hfit
  have hlen := length_of_read hread
  have hk : KindsFit ak ck s.mc := ⟨h4, h0, h1⟩
  rw [← hlen]
  intro n rem msg port0 h v11u conf slotI slotE payload fopts b0 calls ha hc hgt hI hE hN hmic haccept
  have hrun : exec (.secDownlink ak address ck cand) s = verifyAndDecrypt ak address ck cand s b (.ofBytes b) :=
    (secDownlink_eq hk hj).trans ((withDataFrame_frame hcap hread hfit).trans (downlinkChecks_passed ha hc hgt))
  have hconf : downlinkConf (s.r.lwVariant == .v11 && ak == 0) (byteAt b 5) s.r = conf := by
    simp only [downlinkConf, ackBit, Bool.and_eq_true, beq_iff_eq]
    rfl
  have hcalls : [micCall ak address cand b conf] ++ decryptCalls slotE v11u address cand (.ofBytes b) = calls := by
    rw [decryptCalls, foptsCalls, ← List.append_assoc]
    rfl
  have hends := verifyAndDecrypt_ends (ck := ck) (f := .ofBytes b) (kE := kE) (kN := kN) hlen
    (fopts_length_le (hlen ▸ hfit)) (fun x hx => Option.some.inj (hx.symm.trans hI))
    (fun hp x hx => Option.some.inj (hx.symm.trans (hE hp)))
    (fun hv hf x hx => Option.some.inj (hx.symm.trans (hN hv hf))) hconf (downlinkPayloadSlot_eq ak (port0_iff b))
    (by simp [v11u]) hmic
  rw [hcalls, ← hrun] at hends
  have hkeys : ¬ UsesEmptySlot calls s := by
    rw [← hcalls, decryptCalls, usesEmptySlot_append, usesEmptySlot_append, usesEmptySlot_singleton rfl,
      usesEmptySlot_payloadCalls, usesEmptySlot_foptsCalls]
    rintro (hnone | ⟨hnone, hp⟩ | ⟨hnone, hv, hf⟩)
    · exact absurd (hnone.symm.trans hI) nofun
    · exact absurd (hnone.symm.trans (hE hp)) nofun
    · exact absurd (hnone.symm.trans (hN hv hf)) nofun
  obtain ⟨t, ht, hframe, hstores⟩ := downlink_committed hends ⟨haccept, hkeys⟩
  rw [setDataFrame_fd_ofBytes s (hlen ▸ hfit) (cryptedPayload_length ..), multicastByte] at hframe
  refine ⟨t, ht, hframe.trans ?_, fun d => ?_⟩
  · rw [hmic, ← ha, hc]
    rfl
  · have hd := hstores d
    cases d <;> exact hd

end Sys2Proof.Proofs.SecureDownlink
end

section
/-! Key derivation and `SEC.JOINACC` (41_security_engine.md R135 to R138, 70_reset_and_hazards.md R318): which key each
call stores, what a failure leaves, and the join-accept that is accepted or refused. -/

namespace Sys2Proof.Proofs.SecureJoin

open Sys2Proof Sys2Proof.Machine
open Sys2Proof.Proofs.FrameCodec Sys2Proof.Proofs.Serialize Sys2Proof.Proofs.SecureElement

/-! ### Sequences of derivations -/

/-- One derivation: the block, the root slot and the target slot. -/
abbrev DeriveStep := List Byte × KeySlot × KeySlot

/-- The calls of a sequence of derivations. -/
def callsOf (steps : List DeriveStep) : List Call := steps.map fun x => .seDeriveStore x.1 x.2.1 x.2.2

/-- The key slots after a sequence of derivations, with the key of each root. -/
def storeAll (par : Params) (key : KeySlot → Key) (steps : List DeriveStep) (se : KeyStore) : KeyStore :=
  steps.foldl (fun se x => se.put x.2.2 (derived par (key x.2.1) x.1)) se

/-- No derivation has an earlier one's target as its root. -/
def RootsKept (steps : List DeriveStep) : Prop := steps.Pairwise fun x y => y.2.1 ≠ x.2.2

/-- The roots of the derivations have these keys, where they have any. -/
def HasKeys (steps : List DeriveStep) (se : KeyStore) (key : KeySlot → Key) : Prop :=
  ∀ x ∈ steps, ∀ k, se.get x.2.1 = some k → k = key x.2.1

theorem callsOf_take (steps : List DeriveStep) (n : Nat) : callsOf (steps.take n) = (callsOf steps).take n :=
  List.map_take ..

/-- The state after derivations: the calls made and the keys stored. -/
def afterDerivations (par : Params) (key : KeySlot → Key) (calls : List Call) (steps : List DeriveStep) (s : State) :
    State :=
  { callsMade calls s with se := storeAll par key steps s.se }

/-- One derivation that succeeds. -/
theorem seDeriveStore_succeeds {x : DeriveStep} {s : State} {key : KeySlot → Key} (hkeys : HasKeys [x] s.se key)
    (hok : Succeeds (callsOf [x]) s) :
    seDeriveStore x.1 x.2.1 x.2.2 s = (some (), afterDerivations s.par key (callsOf [x]) [x] s) := by
  obtain ⟨haccept, k, hk⟩ := (succeeds_singleton rfl s).1 hok
  obtain rfl := hkeys x (List.mem_singleton_self x) k hk
  have hse := seCall_se (.seDeriveStore x.1 x.2.1 x.2.2) s
  have hpar := seCall_par (.seDeriveStore x.1 x.2.1 x.2.2) s
  unfold seDeriveStore
  split
  · next e => rw [e] at haccept; cases haccept
  · next s1 e =>
    replace hse : s1.se = s.se := by rwa [e] at hse
    replace hpar : s1.par = s.par := by rwa [e] at hpar
    have hmade : callsMade (callsOf [x]) s = s1 := congrArg Prod.snd e
    rw [hse, hk, afterDerivations, hmade]
    simp only [hpar, seKey_eq]
    rfl

/-- One derivation that fails leaves every slot. -/
theorem seDeriveStore_fails {x : DeriveStep} {s : State} (hfail : ¬ Succeeds (callsOf [x]) s) :
    seDeriveStore x.1 x.2.1 x.2.2 s = (none, callsMade (callsOf [x]) s) := by
  have hse := seCall_se (.seDeriveStore x.1 x.2.1 x.2.2) s
  unfold seDeriveStore
  split
  · next s1 e => rw [show callsMade (callsOf [x]) s = s1 from congrArg Prod.snd e]
  · next s1 e =>
    replace hse : s1.se = s.se := by rwa [e] at hse
    rw [show callsMade (callsOf [x]) s = s1 from congrArg Prod.snd e, hse]
    split
    · rfl
    · next k hk => exact (hfail ((succeeds_singleton rfl s).2 ⟨congrArg Prod.fst e, k, hk⟩)).elim

/-- What a sequence of derivations does: every key stored, or those of the calls before the one that fails. -/
structure Derives (steps : List DeriveStep) (key : KeySlot → Key) (s : State) (r : Option Unit × State) : Prop where
  succeeds : Succeeds (callsOf steps) s → r = (some (), afterDerivations s.par key (callsOf steps) steps s)
  fails : ∀ n, SeFailsAt (callsOf steps) n s →
    r = (none, afterDerivations s.par key ((callsOf steps).take (n + 1)) (steps.take n) s)

theorem succeeds_congr {calls : List Call} {s s' : State} (hacc : SeAccepts calls s' ↔ SeAccepts calls s)
    (hempty : UsesEmptySlot calls s' ↔ UsesEmptySlot calls s) : Succeeds calls s' ↔ Succeeds calls s := by
  rw [Succeeds, Succeeds, hacc, hempty]

/-- Later derivations find the slots of their roots as they were. -/
theorem get_root_after {x : DeriveStep} {steps : List DeriveStep} (hroots : RootsKept (x :: steps)) {s : State}
    {key : KeySlot → Key} {y : DeriveStep} (hy : y ∈ steps) :
    (afterDerivations s.par key (callsOf [x]) [x] s).se.get y.2.1 = s.se.get y.2.1 :=
  get_put_other s.se _ ((List.pairwise_cons.1 hroots).1 y hy)

theorem succeeds_after {x : DeriveStep} {steps more : List DeriveStep} (hroots : RootsKept (x :: steps))
    (hmore : more ⊆ steps) {s : State} {key : KeySlot → Key} :
    Succeeds (callsOf more) (afterDerivations s.par key (callsOf [x]) [x] s)
      ↔ Succeeds (callsOf more) (callsMade (callsOf [x]) s) := by
  refine succeeds_congr (seAccepts_with_se ..) (usesEmptySlot_congr fun c hc slot hslot => ?_)
  obtain ⟨y, hy, rfl⟩ := List.mem_map.1 hc
  cases hslot
  rw [get_root_after hroots (hmore hy), callsMade_se]

theorem seFailsAt_after {x : DeriveStep} {steps : List DeriveStep} (hroots : RootsKept (x :: steps)) {n : Nat}
    {s : State} {key : KeySlot → Key} :
    SeFailsAt (callsOf steps) n (afterDerivations s.par key (callsOf [x]) [x] s)
      ↔ SeFailsAt (callsOf steps) n (callsMade (callsOf [x]) s) := by
  rw [seFailsAt_iff, seFailsAt_iff, ← callsOf_take, ← callsOf_take, succeeds_after hroots (List.take_subset ..),
    succeeds_after hroots (List.take_subset ..)]

theorem afterDerivations_nil (par : Params) (key : KeySlot → Key) (calls : List Call) (s : State) :
    afterDerivations par key calls [] s = callsMade calls s := by
  rw [afterDerivations, storeAll, List.foldl_nil, ← callsMade_se calls s]

theorem afterDerivations_cons (x : DeriveStep) (steps : List DeriveStep) (key : KeySlot → Key) (calls : List Call)
    (s : State) :
    afterDerivations (afterDerivations s.par key (callsOf [x]) [x] s).par key calls steps
        (afterDerivations s.par key (callsOf [x]) [x] s)
      = afterDerivations s.par key (callsOf [x] ++ calls) (x :: steps) s := by
  have hpar : (afterDerivations s.par key (callsOf [x]) [x] s).par = s.par := callsMade_par ..
  rw [hpar]
  unfold afterDerivations
  rw [callsMade_with_se, callsMade_append]
  rfl

theorem deriveAll_derives {steps : List DeriveStep} {key : KeySlot → Key} {s : State} (hroots : RootsKept steps)
    (hkeys : HasKeys steps s.se key) : Derives steps key s (deriveAll steps s) := by
  induction steps generalizing s with
  | nil => exact ⟨fun _ => rfl, fun n h => (not_seFailsAt_nil h).elim⟩
  | cons x steps ih =>
    have hkey : HasKeys [x] s.se key := fun y hy => hkeys y (by simp_all)
    have hrest := ih (s := afterDerivations s.par key (callsOf [x]) [x] s) (List.pairwise_cons.1 hroots).2
      fun y hy k hk => hkeys y (List.mem_cons_of_mem x hy) k (by rwa [get_root_after hroots hy] at hk)
    refine ⟨fun hok => ?_, fun n hn => ?_⟩
    · obtain ⟨h1, h2⟩ := (succeeds_append (callsOf [x]) (callsOf steps) s).1 hok
      rw [deriveAll, seDeriveStore_succeeds hkey h1]
      refine (hrest.succeeds ((succeeds_after hroots (List.Subset.refl _)).2 h2)).trans ?_
      rw [afterDerivations_cons]
      rfl
    · rcases seFailsAt_append (calls := callsOf [x]) (more := callsOf steps) hn with h | ⟨m, rfl, h1, h2⟩
      · obtain ⟨rfl, hfail⟩ := seFailsAt_singleton h
        rw [deriveAll, seDeriveStore_fails hfail, List.take_zero, afterDerivations_nil]
        rfl
      · rw [deriveAll, seDeriveStore_succeeds hkey h1]
        refine (hrest.fails m ((seFailsAt_after hroots).2 h2)).trans ?_
        rw [afterDerivations_cons, show (callsOf [x]).length = 1 from rfl, Nat.add_comm 1 m]
        rfl

/-! ### The commands that derive keys (R136 to R138) -/

/-- A command that is a sequence of derivations. -/
def DerivesOnly (o : Out) (steps : List DeriveStep) (s : State) : Prop :=
  o = orSeFailed (deriveAll steps s) fun _ s => done [] s

namespace DerivesOnly

variable {o : Out} {steps : List DeriveStep} {s : State} {key : KeySlot → Key}

theorem stored (h : DerivesOnly o steps s) (hroots : RootsKept steps)
    (hkeys : ∀ x ∈ steps, s.se.get x.2.1 = some (key x.2.1)) (haccept : SeAccepts (callsOf steps) s) :
    ∃ t, o = .next t ∧ { t with script := s.script }
      = { answeredOk [] s with se := storeAll s.par key steps s.se, trace := s.trace ++ callsOf steps } := by
  have hempty : ¬ UsesEmptySlot (callsOf steps) s := by
    rintro ⟨c, hc, slot, hslot, hnone⟩
    obtain ⟨x, hx, rfl⟩ := List.mem_map.1 hc
    cases hslot
    exact absurd (hnone.symm.trans (hkeys x hx)) nofun
  have hrun := deriveAll_derives hroots fun x hx k hk => Option.some.inj (hk.symm.trans (hkeys x hx))
  refine ⟨_, h.trans (congrArg (fun r => orSeFailed r fun _ s => done [] s)
    (hrun.succeeds ⟨haccept, hempty⟩)), ?_⟩
  rw [afterDerivations, callsMade_eq]
  rfl

theorem failed (h : DerivesOnly o steps s) (hroots : RootsKept steps) (hkeys : HasKeys steps s.se key) {n : Nat}
    (hn : SeFailsAt (callsOf steps) n s) :
    ∃ t, o = .next t ∧ { t with script := s.script } = { failedWith .errSeFailed s with
      trace := s.trace ++ (callsOf steps).take (n + 1), se := storeAll s.par key (steps.take n) s.se } := by
  have hrun := (deriveAll_derives hroots hkeys).fails n hn
  refine ⟨_, h.trans (congrArg (fun r => orSeFailed r fun _ s => done [] s) hrun), ?_⟩
  rw [afterDerivations, callsMade_eq]
  rfl

end DerivesOnly

theorem secDeriveSession_derives (v : Variant) (jn ni : Tri) (je : Eui) (dn : Half) (s : State) :
    DerivesOnly (exec (.secDeriveSession v jn ni je dn) s) (sessionSteps v jn ni je dn) s := rfl

theorem secDeriveMc_derives (stage : McStage) (s : State) :
    DerivesOnly (exec (.secDeriveMc stage) s) (mcSteps s.r.lwVariant stage) s := rfl

theorem secDeriveLifetime_derives (e : Eui) (s : State) :
    DerivesOnly (exec (.secDeriveLifetime e) s) (lifetimeSteps e) s := rfl

theorem sessionSteps_rootsKept (v : Variant) (jn ni : Tri) (je : Eui) (dn : Half) :
    RootsKept (sessionSteps v jn ni je dn) := by
  cases v <;> simp [RootsKept, sessionSteps]

theorem mcSteps_rootsKept (v : Variant) (stage : McStage) : RootsKept (mcSteps v stage) := by
  cases stage with
  | root => cases v <;> exact List.pairwise_singleton ..
  | ke | key => exact List.pairwise_singleton ..
  | session => simp [RootsKept, mcSteps]

theorem lifetimeSteps_rootsKept (e : Eui) : RootsKept (lifetimeSteps e) := by simp [RootsKept, lifetimeSteps]

theorem callsOf_sessionSteps (v : Variant) (jn ni : Tri) (je : Eui) (dn : Half) :
    callsOf (sessionSteps v jn ni je dn) = sessionCalls v jn ni je dn := by
  cases v <;> rfl

/-- The root keys of a session: `ka` in `APP_KEY`, `k` elsewhere. -/
def sessionRoots (k ka : Key) (slot : KeySlot) : Key := if slot = .appKey then ka else k

theorem storeAll_session (par : Params) (v : Variant) (jn ni : Tri) (je : Eui) (dn : Half) (k ka : Key)
    (se : KeyStore) :
    storeAll par (sessionRoots k ka) (sessionSteps v jn ni je dn) se = sessionKeys par v jn ni je dn k ka se := by
  cases v <;> rfl

/-- The session derivation has four steps, and fails at one of them. -/
theorem storeAll_session_take (par : Params) (v : Variant) (jn ni : Tri) (je : Eui) (dn : Half) (k ka : Key)
    (se : KeyStore) {n : Nat} (hn : n < 4) :
    storeAll par (sessionRoots k ka) ((sessionSteps v jn ni je dn).take n) se
      = sessionKeysUpTo par n v jn ni je dn k ka se := by
  cases v <;> interval_cases n <;> rfl

/-- A session derivation that may be cut. -/
theorem sessionSteps_hasKeys {v : Variant} {jn ni : Tri} {je : Eui} {dn : Half} {se : KeyStore} {k ka : Key}
    (hk : ∀ x, se.nwkKey = some x → x = k) (ha : v = .v11 → ∀ x, se.appKey = some x → x = ka) :
    HasKeys (sessionSteps v jn ni je dn) se (sessionRoots k ka) := by
  cases v <;> simp [HasKeys, sessionSteps, sessionRoots, KeyStore.get] <;> tauto

/-- Settles O33: the steps of each command, with the keys of their roots. -/
theorem derivationsStoreKeys : Obligations.DerivationsStoreKeys := by
  intro s k ka derives
  refine ⟨fun v jn ni je dn hk ha haccept => ?session, fun hv hk haccept => ?root11, fun hv hk haccept => ?root10,
    fun hk haccept => ?ke, fun h enc hk haccept => ?key, fun h a hk haccept => ?mcSession,
    fun e hk haccept => ?lifetime⟩
  case session =>
    rw [← callsOf_sessionSteps] at haccept ⊢
    rw [← storeAll_session]
    refine (secDeriveSession_derives v jn ni je dn s).stored (sessionSteps_rootsKept ..) ?_ haccept
    cases v
    · simp [sessionSteps, sessionRoots, KeyStore.get, hk]
    · simp [sessionSteps, sessionRoots, KeyStore.get, hk, ha]
  case root11 =>
    have hrun := secDeriveMc_derives .root s
    rw [hv] at hrun
    exact hrun.stored (key := fun _ => k) (mcSteps_rootsKept ..) (by simpa [mcSteps, KeyStore.get] using hk) haccept
  case root10 =>
    have hrun := secDeriveMc_derives .root s
    rw [hv] at hrun
    exact hrun.stored (key := fun _ => k) (mcSteps_rootsKept ..) (by simpa [mcSteps, KeyStore.get] using hk) haccept
  case ke =>
    exact (secDeriveMc_derives .ke s).stored (key := fun _ => k) (mcSteps_rootsKept ..)
      (by simpa [mcSteps, KeyStore.get] using hk) haccept
  case key =>
    exact (secDeriveMc_derives (.key h enc) s).stored (key := fun _ => k) (mcSteps_rootsKept ..)
      (by simpa [mcSteps, KeyStore.get] using hk) haccept
  case mcSession =>
    exact (secDeriveMc_derives (.session h a) s).stored (key := fun _ => k) (mcSteps_rootsKept ..)
      (by simpa [mcSteps, KeyStore.get] using hk) haccept
  case lifetime =>
    exact (secDeriveLifetime_derives e s).stored (key := fun _ => k) (lifetimeSteps_rootsKept e)
      (by simpa [lifetimeSteps, KeyStore.get] using hk) haccept

/-! ### `SEC.JOINACC` (R135) -/

theorem exec_secJoinacc (q : Byte) (je : Eui) (dn : Half) (s : State) :
    exec (.secJoinacc q je dn) s = execSecJoinacc q je dn s := rfl

/-- The request types: a join-request's while not joined, or a rejoin-request's. -/
def RequestKind (q : Byte) (s : State) : Prop := (q = 0xFF ∧ s.r.joined = false) ∨ q.toNat ≤ 2

theorem secJoinacc_type {q : Byte} (je : Eui) (dn : Half) (s : State) (h1 : q ≠ 0xFF) (h2 : 2 < q.toNat) :
    exec (.secJoinacc q je dn) s = .next (failedWith .errParam s) := by
  rw [exec_secJoinacc, execSecJoinacc, if_pos (c := q ≠ 0xFF ∧ _) ⟨h1, h2⟩, raise_eq_failedWith]

theorem secJoinacc_joined {q : Byte} (je : Eui) (dn : Half) {s : State} (h1 : q = 0xFF) (h2 : s.r.joined = true) :
    exec (.secJoinacc q je dn) s = .next (failedWith .failAlreadyJoined s) := by
  rw [exec_secJoinacc, execSecJoinacc, if_neg (by simp [h1]), if_pos (c := q = 0xFF ∧ _) ⟨h1, h2⟩,
    raise_eq_failedWith]

theorem RequestKind.tests_pass {q : Byte} {s : State} (h : RequestKind q s) :
    ¬ (q ≠ 0xFF ∧ 2 < q.toNat) ∧ ¬ (q = 0xFF ∧ s.r.joined = true) := by
  rcases h with ⟨rfl, hj⟩ | h
  · simp [hj]
  · exact ⟨by omega, by rintro ⟨rfl, -⟩; exact absurd h (by decide)⟩

theorem secJoinacc_length {q : Byte} (je : Eui) (dn : Half) {s : State} (hk : RequestKind q s)
    (h : (s.rxLen ≠ 17 ∧ s.rxLen ≠ 33) ∨ s.par.phyMax < s.rxLen.toNat) :
    exec (.secJoinacc q je dn) s = .next (failedWith .errParse s) := by
  rw [exec_secJoinacc, execSecJoinacc, if_neg hk.tests_pass.1, if_neg hk.tests_pass.2,
    if_pos (h.imp_right rxEnds_eq_true.2), raise_eq_failedWith]

/-- Part of a string that was read. -/
theorem read_slice {s : State} {b : Buf} {n : Nat} {bs : List Byte} (h : s.read b 0 n = some bs) {i m : Nat}
    (him : i + m ≤ n) : s.read b i m = some (slice bs i m) := by
  have hlen : (slice bs i m).length = m := slice_length (by rw [length_of_read h]; exact him)
  have hread := readCells_of_bytes (unlisted b) (s.mem.buf b) i (slice bs i m) fun k hk => by
    have hcell := readCells_getElem? h (k := i + k) (by omega)
    rw [Nat.zero_add] at hcell
    rw [← hcell, slice, List.getElem?_take_of_lt (by omega), List.getElem?_drop]
  rwa [hlen] at hread

/-- One more block of the join-accept decrypted. -/
theorem decryptBlocks_succ {slot : KeySlot} {n i : Nat} {pl c : List Byte} {s : State} {kd : Key}
    {k : List Byte → State → Out} {more : List Call} {last : State → Out} (hread : s.read .rx i 16 = some c)
    (hk : ∀ x, s.se.get slot = some x → x = kd)
    (hrest : Ends more (callsMade [.seEcb c slot] s)
      (decryptBlocks slot n (i + 16) (pl ++ encrypted s.par kd c) (callsMade [.seEcb c slot] s) k) last) :
    Ends ([.seEcb c slot] ++ more) s (decryptBlocks slot (n + 1) i pl s k) last := by
  rw [decryptBlocks, hread, orFault_some]
  exact .orSeFailed (seEcb_run hk c) hrest

theorem acceptPlain_length (par : Params) (kd : Key) {b : List Byte} (h : b.length = 17 ∨ b.length = 33) :
    (acceptPlain par kd b).length = b.length := by
  rcases h with h | h <;> simp [acceptPlain, h]

theorem joinVariant_eq (r : Regs) (pl : List Byte) :
    joinVariant r (JoinAccept.ofBytes pl).dlSettings = acceptVariant r.lwVariant pl := rfl

/-- The calls of the decryption. -/
def decryptionCalls (slot : KeySlot) (b : List Byte) : List Call :=
  [.seEcb (slice b 1 16) slot] ++ if b.length = 33 then [.seEcb (slice b 17 16) slot] else []

theorem decryptBlocks_ends {slot : KeySlot} {b : List Byte} {s : State} {kd : Key} {k : List Byte → State → Out}
    {more : List Call} {last : State → Out} (hb : b.length = 17 ∨ b.length = 33)
    (hread : s.read .rx 0 b.length = some b) (hk : ∀ x, s.se.get slot = some x → x = kd)
    (hrest : Ends more (callsMade (decryptionCalls slot b) s)
      (k (acceptPlain s.par kd b) (callsMade (decryptionCalls slot b) s)) last) :
    Ends (decryptionCalls slot b ++ more) s (decryptBlocks slot ((b.length - 1) / 16) 1 [byteAt b 0] s k) last := by
  rcases hb with hb | hb <;> rw [hb] at hread ⊢
  · rw [decryptionCalls, acceptPlain, if_neg (by omega), List.append_nil] at *
    rw [if_neg (by omega), List.append_nil] at hrest
    exact decryptBlocks_succ (read_slice hread (by omega)) hk hrest
  · rw [decryptionCalls, acceptPlain, if_pos hb] at *
    rw [if_pos hb, callsMade_append] at hrest
    rw [List.append_assoc]
    refine decryptBlocks_succ (read_slice hread (by omega)) hk (decryptBlocks_succ (kd := kd) ?_ ?_ ?_)
    · rw [callsMade_read]
      exact read_slice hread (by omega)
    · rwa [callsMade_se]
    · rw [callsMade_par]
      exact hrest

/-- What a join-accept is taken for once its MIC has matched: the derivations, then the commit. -/
def deriveAndJoin (v : Variant) (je : Eui) (dn : Half) (pl : List Byte) (s : State) : Out :=
  orSeFailed (deriveAll (sessionSteps v (numAt pl 1 3) (numAt pl 4 3) je dn) s) fun _ s =>
    done [variantByte v, bitByte (JoinAccept.ofBytes pl).cflist.isSome]
      (applyCflist (JoinAccept.ofBytes pl).cflist (commitJoin v pl (.ofBytes pl) s))

theorem joinacceptMic_run {s : State} {v : Variant} {km : Key}
    (hm : ∀ x, s.se.get (acceptMicSlot v) = some x → x = km) (q : Byte) (je : Eui) (dn : Half) (pl : List Byte) :
    SeRun [.seCmac none (acceptData v q je dn pl) (acceptMicSlot v)] s
      (joinacceptMic v q je dn (pl.take (pl.length - 4)) s) (tag32 s.par km none (acceptData v q je dn pl)) := by
  cases v with
  | v10 => exact seCmac_run hm none _
  | v11 => exact seCmac_run hm none _

/-- The decryption and the MIC of a join-accept. -/
theorem secJoinacc_ends {q : Byte} {je : Eui} {dn : Half} {s : State} {b : List Byte} {kd km : Key}
    (hkind : RequestKind q s) (hb : b.length = 17 ∨ b.length = 33) (hlen : b.length = s.rxLen.toNat)
    (hcap : s.rxLen.toNat ≤ s.par.phyMax) (hread : s.read .rx 0 s.rxLen.toNat = some b)
    (hd : ∀ x, s.se.get (acceptSlot q) = some x → x = kd)
    (hm : ∀ x, s.se.get (acceptMicSlot (acceptVariant s.r.lwVariant (acceptPlain s.par kd b))) = some x → x = km) :
    Ends (verifyCalls (acceptVariant s.r.lwVariant (acceptPlain s.par kd b)) q je dn b (acceptPlain s.par kd b)) s
      (exec (.secJoinacc q je dn) s) fun s' =>
        if tag32 s.par km none
            (acceptData (acceptVariant s.r.lwVariant (acceptPlain s.par kd b)) q je dn (acceptPlain s.par kd b))
          ≠ acceptMic (acceptPlain s.par kd b) then raise .failMic s'
        else
          deriveAndJoin (acceptVariant s.r.lwVariant (acceptPlain s.par kd b)) je dn (acceptPlain s.par kd b) s' := by
  have hl : s.rxLen = 17 ∨ s.rxLen = 33 := by bv_omega
  rw [exec_secJoinacc, execSecJoinacc, if_neg hkind.tests_pass.1, if_neg hkind.tests_pass.2,
    if_neg (not_or.2 ⟨by tauto, by rw [rxEnds_eq_true]; omega⟩), byteOf_of_read hread (by omega), orFault_some,
    ← hlen]
  rw [← hlen] at hread
  refine decryptBlocks_ends hb hread hd ?_
  have hmic := joinacceptMic_run (s := callsMade (decryptionCalls (acceptSlot q) b) s)
    (v := acceptVariant s.r.lwVariant (acceptPlain s.par kd b)) (km := km) (by rwa [callsMade_se]) q je dn
    (acceptPlain s.par kd b)
  simp only [joinVariant_eq, callsMade_r, callsMade_rxLen, callsMade_par, ← hlen, acceptPlain_length s.par kd hb]
    at hmic ⊢
  exact .orSeFailed_last hmic

theorem toNat_length_of_kind {s : State} {b : List Byte} (h : s.rxLen = 17 ∨ s.rxLen = 33)
    (hread : s.read .rx 0 s.rxLen.toNat = some b) : b.length = 17 ∨ b.length = 33 := by
  rw [length_of_read hread]
  exact h.imp (fun h => by rw [h]; rfl) fun h => by rw [h]; rfl

/-- Settles O36: the tests before the calls, then `secJoinacc_ends` cut at a call or with a MIC that does not match. -/
theorem secJoinaccRefusals : Obligations.SecJoinaccRefusals := by
  intro q je dn s run kinds
  refine ⟨secJoinacc_type je dn s, secJoinacc_joined je dn, fun hk => secJoinacc_length je dn hk,
    fun b kd km hk hl hcap hread => ?_⟩
  intro pl v calls hd hm
  have hends := secJoinacc_ends (je := je) (dn := dn) hk (toNat_length_of_kind hl hread) (length_of_read hread) hcap
    hread hd hm
  refine ⟨fun n => hends.failed, fun haccept hkeys hmic => ?_⟩
  refine ⟨_, (hends.succeeds ⟨haccept, hkeys⟩).trans (if_pos hmic), ?_⟩
  rw [callsMade_eq]
  rfl

/-- The session keys of an accepted join-accept. -/
theorem deriveAndJoin_succeeds {v : Variant} {je : Eui} {dn : Half} {pl : List Byte} {s : State} {k ka : Key}
    (hkeys : HasKeys (sessionSteps v (numAt pl 1 3) (numAt pl 4 3) je dn) s.se (sessionRoots k ka))
    (hok : Succeeds (sessionCalls v (numAt pl 1 3) (numAt pl 4 3) je dn) s) :
    deriveAndJoin v je dn pl s = done [variantByte v, bitByte (JoinAccept.ofBytes pl).cflist.isSome]
      (applyCflist (JoinAccept.ofBytes pl).cflist (commitJoin v pl (.ofBytes pl)
        { callsMade (sessionCalls v (numAt pl 1 3) (numAt pl 4 3) je dn) s with
          se := sessionKeys s.par v (numAt pl 1 3) (numAt pl 4 3) je dn k ka s.se })) := by
  rw [← callsOf_sessionSteps] at hok ⊢
  rw [deriveAndJoin, (deriveAll_derives (sessionSteps_rootsKept ..) hkeys).succeeds hok, afterDerivations,
    storeAll_session]
  rfl

/-- A session derivation cut at one of its calls. -/
theorem deriveAndJoin_fails {v : Variant} {je : Eui} {dn : Half} {pl : List Byte} {s : State} {k ka : Key} {n : Nat}
    (hkeys : HasKeys (sessionSteps v (numAt pl 1 3) (numAt pl 4 3) je dn) s.se (sessionRoots k ka))
    (hn : SeFailsAt (sessionCalls v (numAt pl 1 3) (numAt pl 4 3) je dn) n s) :
    deriveAndJoin v je dn pl s = .next (failedWith .errSeFailed
      { callsMade ((sessionCalls v (numAt pl 1 3) (numAt pl 4 3) je dn).take (n + 1)) s with
        se := sessionKeysUpTo s.par n v (numAt pl 1 3) (numAt pl 4 3) je dn k ka s.se }) := by
  have h4 : n < 4 := by
    refine hn.1.trans_eq ?_
    cases v <;> rfl
  rw [← callsOf_sessionSteps] at hn ⊢
  rw [deriveAndJoin, (deriveAll_derives (sessionSteps_rootsKept ..) hkeys).fails n hn, afterDerivations,
    storeAll_session_take _ _ _ _ _ _ _ _ _ h4]
  rfl

/-- One derivation that is cut leaves its slot. -/
theorem DerivesOnly.failed_alone {o : Out} {x : DeriveStep} {s : State} (h : DerivesOnly o [x] s) {n : Nat}
    (hn : SeFailsAt (callsOf [x]) n s) :
    ∃ t, o = .next t ∧ { t with script := s.script } = { failedWith .errSeFailed s with
      trace := s.trace ++ (callsOf [x]).take (n + 1), se := s.se } := by
  obtain ⟨rfl, -⟩ := seFailsAt_singleton hn
  exact h.failed (key := fun slot => (s.se.get slot).getD 0) (List.pairwise_singleton ..)
    (fun y _ k hk => (congrArg (Option.getD · 0) hk).symm) hn

/-- Settles O34: the steps of each command cut at one of them; in `SEC.JOINACC` after the calls of the MIC. -/
theorem derivationFailureKeepsEarlierKeys : Obligations.DerivationFailureKeepsEarlierKeys := by
  intro s n k ka fails
  refine ⟨fun v jn ni je dn hk ha hn => ?session, fun hv hn => ?root11, fun hv hn => ?root10, fun hn => ?ke,
    fun h enc hn => ?key, fun h a hk hn => ?mcSession, fun e hk hn => ?lifetime,
    fun q je dn b kd km hkind hl hcap hread => ?joinacc⟩
  case session =>
    have h4 : n < 4 := by
      refine hn.1.trans_eq ?_
      cases v <;> rfl
    rw [← callsOf_sessionSteps] at hn ⊢
    rw [← storeAll_session_take _ _ _ _ _ _ _ _ _ h4]
    exact (secDeriveSession_derives v jn ni je dn s).failed (sessionSteps_rootsKept ..)
      (sessionSteps_hasKeys hk fun _ => ha) hn
  case root11 =>
    have hrun := secDeriveMc_derives .root s
    rw [hv] at hrun
    exact hrun.failed_alone hn
  case root10 =>
    have hrun := secDeriveMc_derives .root s
    rw [hv] at hrun
    exact hrun.failed_alone hn
  case ke => exact (secDeriveMc_derives .ke s).failed_alone hn
  case key => exact (secDeriveMc_derives (.key h enc) s).failed_alone hn
  case mcSession =>
    obtain ⟨t, ht, hframe⟩ := (secDeriveMc_derives (.session h a) s).failed (key := fun _ => k)
      (mcSteps_rootsKept ..) (by simpa [HasKeys, mcSteps, KeyStore.get] using hk) hn
    refine ⟨t, ht, hframe.trans ?_⟩
    obtain rfl | rfl : n = 0 ∨ n = 1 := by
      have : n < 2 := hn.1
      omega
    · rfl
    · rfl
  case lifetime =>
    obtain ⟨t, ht, hframe⟩ := (secDeriveLifetime_derives e s).failed (key := fun _ => k)
      (lifetimeSteps_rootsKept e) (by simpa [HasKeys, lifetimeSteps, KeyStore.get] using hk) hn
    refine ⟨t, ht, hframe.trans ?_⟩
    obtain rfl | rfl : n = 0 ∨ n = 1 := by
      have : n < 2 := hn.1
      omega
    · rfl
    · rfl
  case joinacc =>
    intro pl v verify jn ni calls hd hm hk ha hmic hn
    have hends := secJoinacc_ends (je := je) (dn := dn) hkind (toNat_length_of_kind hl hread) (length_of_read hread)
      hcap hread hd hm
    rcases seFailsAt_append hn with h | ⟨m, hm, hok, hfail⟩
    · exact absurd h.1 (by omega)
    obtain rfl : n = m := Nat.add_left_cancel hm
    refine ⟨_, (hends.succeeds hok).trans ((if_neg (not_not.2 hmic)).trans (deriveAndJoin_fails
      (sessionSteps_hasKeys (by rwa [callsMade_se]) fun _ => by rwa [callsMade_se]) hfail)), ?_⟩
    rw [callsMade_par, callsMade_se, ← callsMade_append, callsMade_eq, Nat.add_assoc, List.take_length_add_append]
    rfl

theorem usesEmptySlot_verifyCalls {v : Variant} {q : Byte} {je : Eui} {dn : Half} {b pl : List Byte} {s : State}
    {kd km : Key} (hd : s.se.get (acceptSlot q) = some kd) (hm : s.se.get (acceptMicSlot v) = some km) :
    ¬ UsesEmptySlot (verifyCalls v q je dn b pl) s := by
  rw [usesEmptySlot_iff, verifyCalls]
  split <;> simp [callOnEmpty, callSlot, hd, hm]

theorem usesEmptySlot_sessionCalls {v : Variant} {jn ni : Tri} {je : Eui} {dn : Half} {s : State} {kn ka : Key}
    (hn : s.se.nwkKey = some kn) (ha : v = .v11 → s.se.appKey = some ka) :
    ¬ UsesEmptySlot (sessionCalls v jn ni je dn) s := by
  rw [usesEmptySlot_iff]
  cases v
  · simp [sessionCalls, callOnEmpty, callSlot, KeyStore.get, hn]
  · simp [sessionCalls, callOnEmpty, callSlot, KeyStore.get, hn, ha]

theorem variantByte_eq (v : Variant) : variantByte v = if v = .v11 then 1 else 0 := by cases v <;> rfl

theorem applyCflist_mem (l : Option (List Byte)) (s : State) : (applyCflist l s).mem = s.mem := by cases l <;> rfl

/-- What a state stores is a matter of its memory. -/
theorem stores_of_mem {s t t' : State} {w : Buf → List Byte} (hmem : t.mem = t'.mem) (h : Stores s t' w) :
    Stores s t w := by
  intro b j
  rw [State.byteOf, hmem]
  exact h b j

/-- Settles O35: the calls succeed, and what follows them is the commit. -/
theorem secJoinaccAccepts : Obligations.SecJoinaccAccepts := by
  intro q je dn s b kd kn kj ka hkind hl hcap hread long pl v jn ni addr calls hd hn h11 hmic haccept
  have hb := toNat_length_of_kind hl hread
  have hm : s.se.get (acceptMicSlot v) = some (if v = .v11 then kj else kn) := by
    unfold acceptMicSlot
    split
    · next hv => exact (h11 hv).1
    · exact hn
  have hends := secJoinacc_ends (je := je) (dn := dn) hkind hb (length_of_read hread) hcap hread
    (fun x hx => Option.some.inj (hx.symm.trans hd)) (fun x hx => Option.some.inj (hx.symm.trans hm))
  have hok : Succeeds calls s := by
    refine ⟨haccept, ?_⟩
    rw [usesEmptySlot_append, not_or]
    exact ⟨usesEmptySlot_verifyCalls hd hm, usesEmptySlot_sessionCalls hn fun hv => (h11 hv).2⟩
  obtain ⟨hverify, hsession⟩ := (succeeds_append ..).1 hok
  have hkeys := sessionSteps_hasKeys (v := v) (jn := jn) (ni := ni) (je := je) (dn := dn)
    (fun x hx => Option.some.inj (hx.symm.trans hn)) fun hv x hx => Option.some.inj (hx.symm.trans (h11 hv).2)
  have hrun := (hends.succeeds hverify).trans ((if_neg (not_not.2 hmic)).trans
    (deriveAndJoin_succeeds (by rwa [callsMade_se]) hsession))
  rw [callsMade_par, callsMade_se, ← callsMade_append, callsMade_eq] at hrun
  have hlist := joinAccept_cflist_ofBytes ((acceptPlain_length s.par kd hb).trans (length_of_read hread))
  refine ⟨_, hrun, ?_, ?_⟩
  · rw [hlist, variantByte_eq]
    by_cases h33 : s.rxLen = 33
    · simp only [commitJoin, State.setJoinAccept, hlist, long, if_pos h33, beq_iff_eq.2 h33]
      rfl
    · simp only [commitJoin, State.setJoinAccept, hlist, long, if_neg h33, beq_false_of_ne h33, List.append_nil]
      rfl
  · have hlist' : (JoinAccept.ofBytes pl).cflist.getD [] = if long then slice pl 13 16 else [] := by
      rw [hlist]
      split <;> rfl
    rw [← hlist']
    refine stores_of_mem (applyCflist_mem ..) fun d => ?_
    have hd := stores_write_write s pl ((JoinAccept.ofBytes pl).cflist.getD []) (show Buf.rx ≠ .cflist by decide) d
    cases d <;> exact hd

end Sys2Proof.Proofs.SecureJoin
end

section
/-! The slot procedures of the class B scheduler (45_classb_beacon.md R221, R226, R227): what `ArmPing` and `ArmMc`
write, the search for the next slot, the choice of the first multicast slot, and `EnterIdle`. -/

namespace Sys2Proof.Proofs.Slots

open Sys2Proof Sys2Proof.Machine

/-! ### The search for a slot that is not past -/

/-- The slot at which the search of a sequence that has reached slot `n` stops. -/
def nextOf (s : State) (now : Word) (offset : BitVec 12) (period : BitVec 13) (nb n : Byte) : Byte :=
  skipPast s.par offset period nb (sinceEpoch s now) nb.toNat n

/-- The search passes exactly past slots and stops at one that is not past, or at the end of the period. -/
theorem nextOf_spec (s : State) (now : Word) (offset : BitVec 12) (period : BitVec 13) {nb n : Byte}
    (hn : n.toNat ≤ nb.toNat) :
    n.toNat ≤ (nextOf s now offset period nb n).toNat
    ∧ (nextOf s now offset period nb n).toNat ≤ nb.toNat
    ∧ (∀ j, n.toNat ≤ j → j < (nextOf s now offset period nb n).toNat → slotIsPast s offset period now j)
    ∧ ((nextOf s now offset period nb n).toNat < nb.toNat →
        ¬ slotIsPast s offset period now (nextOf s now offset period nb n).toNat) := by
  obtain ⟨hle, hbound, hpast, hstop⟩ := skipPast_spec s.par offset period nb (sinceEpoch s now) nb.toNat n hn
  refine ⟨hle, hbound, fun j hj hlt => ?_, hstop (by omega)⟩
  have hbyte : (BitVec.ofNat 8 j).toNat = j := by
    rw [BitVec.toNat_ofNat, Nat.mod_eq_of_lt (Nat.lt_trans hlt (BitVec.isLt _))]
  have := hpast (BitVec.ofNat 8 j) (by rwa [hbyte]) (by rwa [hbyte])
  rwa [slotPast, slotIndex, hbyte] at this

/-! ### `ArmPing` -/

theorem armPing_off {s : State} (now : Word) (h : s.r.deviceClass ≠ .b ∨ s.p.assigned = false) :
    armPing now s = { s with t := { s.t with ping := { s.t.ping with armed := false } } } := by
  rw [armPing, if_pos h]
  rfl

/-- `T.PING` armed for slot `n` of the device's sequence, or disarmed at the end of the period. -/
def pingTimerAt (s : State) (n : Byte) : Timer :=
  if n.toNat < s.p.pingNb.toNat then
    { armed := true, due := slotOpens s (s.p.offset.toNat + n.toNat * s.p.pingPeriod.toNat) }
  else { s.t.ping with armed := false }

theorem armPing_on {s : State} (now : Word) (hclass : s.r.deviceClass = .b) (hassigned : s.p.assigned = true) :
    armPing now s = { s with
      p := { s.p with nextN := nextOf s now s.p.offset s.p.pingPeriod s.p.pingNb s.p.nextN }
      t := { s.t with ping := pingTimerAt s (nextOf s now s.p.offset s.p.pingPeriod s.p.pingNb s.p.nextN) } } := by
  rw [armPing, if_neg (by simp [hclass, hassigned])]
  by_cases hleft : (nextOf s now s.p.offset s.p.pingPeriod s.p.pingNb s.p.nextN).toNat < s.p.pingNb.toNat
  · rw [pingTimerAt, if_pos hleft]
    simp only [if_pos (show skipPast s.par s.p.offset s.p.pingPeriod s.p.pingNb (sinceEpoch s now) s.p.pingNb.toNat
      s.p.nextN < s.p.pingNb from hleft)]
    rfl
  · rw [pingTimerAt, if_neg hleft]
    simp only [if_neg (show ¬ skipPast s.par s.p.offset s.p.pingPeriod s.p.pingNb (sinceEpoch s now) s.p.pingNb.toNat
      s.p.nextN < s.p.pingNb from hleft)]
    rfl

/-! ### The first multicast slot -/

/-- The entry has a slot left in this beacon period. -/
def HasSlot (mc : Vector McEntry 4) (h : BitVec 2) : Prop :=
  (at4 mc h).valid = true ∧ (at4 mc h).nextN.toNat < (at4 mc h).pingNb.toNat

/-- The index of the entry's next slot. -/
def slotOf (mc : Vector McEntry 4) (h : BitVec 2) : Nat :=
  (at4 mc h).offset.toNat + (at4 mc h).nextN.toNat * (at4 mc h).pingPeriod.toNat

theorem nextSlot_of_hasSlot {mc : Vector McEntry 4} {h : BitVec 2} (hs : HasSlot mc h) :
    nextSlot (at4 mc h) = some (slotOf mc h) := if_pos hs

theorem nextSlot_of_not_hasSlot {mc : Vector McEntry 4} {h : BitVec 2} (hs : ¬ HasSlot mc h) :
    nextSlot (at4 mc h) = none := if_neg hs

/-- Of the entries of a list, this is the one whose next slot comes first, the earliest of them on a tie; or none has a
slot left. -/
def IsFirst (mc : Vector McEntry 4) (l : List (BitVec 2)) : Option (BitVec 2 × Nat) → Prop
  | none => ∀ j ∈ l, ¬ HasSlot mc j
  | some (h, k) => h ∈ l ∧ HasSlot mc h ∧ k = slotOf mc h
      ∧ ∀ j ∈ l, HasSlot mc j → slotOf mc h < slotOf mc j ∨ (slotOf mc h = slotOf mc j ∧ h.toNat ≤ j.toNat)

/-- One more entry, behind those of the list. -/
theorem IsFirst.pickBetter {mc : Vector McEntry 4} {l : List (BitVec 2)} {best : Option (BitVec 2 × Nat)}
    (hbest : IsFirst mc l best) (h : BitVec 2) (hlast : ∀ j ∈ l, j.toNat ≤ h.toNat) :
    IsFirst mc (l ++ [h]) (pickBetter mc best h) := by
  by_cases hs : HasSlot mc h
  · cases best with
    | none =>
      simp only [Machine.pickBetter, nextSlot_of_hasSlot hs]
      refine ⟨by simp, hs, rfl, fun j hj hjs => ?_⟩
      rcases List.mem_append.1 hj with hj | hj
      · exact absurd hjs (hbest j hj)
      · rw [List.mem_singleton.1 hj]
        exact .inr ⟨rfl, Nat.le_refl _⟩
    | some first =>
      obtain ⟨f, k⟩ := first
      obtain ⟨hmem, hfs, rfl, hmin⟩ := hbest
      simp only [Machine.pickBetter, nextSlot_of_hasSlot hs]
      split
      · next hlt =>
        refine ⟨by simp, hs, rfl, fun j hj hjs => ?_⟩
        rcases List.mem_append.1 hj with hj | hj
        · have := hmin j hj hjs
          omega
        · rw [List.mem_singleton.1 hj]
          exact .inr ⟨rfl, Nat.le_refl _⟩
      · next hge =>
        refine ⟨by simp [hmem], hfs, rfl, fun j hj hjs => ?_⟩
        rcases List.mem_append.1 hj with hj | hj
        · exact hmin j hj hjs
        · rw [List.mem_singleton.1 hj]
          have := hlast f hmem
          omega
  · cases best with
    | none =>
      simp only [Machine.pickBetter, nextSlot_of_not_hasSlot hs]
      intro j hj
      rcases List.mem_append.1 hj with hj | hj
      · exact hbest j hj
      · rwa [List.mem_singleton.1 hj]
    | some first =>
      obtain ⟨f, k⟩ := first
      obtain ⟨hmem, hfs, rfl, hmin⟩ := hbest
      simp only [Machine.pickBetter, nextSlot_of_not_hasSlot hs]
      refine ⟨by simp [hmem], hfs, rfl, fun j hj hjs => ?_⟩
      rcases List.mem_append.1 hj with hj | hj
      · exact hmin j hj hjs
      · exact absurd (List.mem_singleton.1 hj ▸ hjs) hs

theorem firstEntry_isFirst (mc : Vector McEntry 4) : IsFirst mc [0, 1, 2, 3] (firstEntry mc) :=
  have h0 : IsFirst mc [] none := fun _ hj => nomatch hj
  (((h0.pickBetter 0 (by decide)).pickBetter 1 (by decide)).pickBetter 2 (by decide)).pickBetter 3 (by decide)

theorem mem_entries : ∀ h : BitVec 2, h ∈ ([0, 1, 2, 3] : List (BitVec 2)) := by decide

theorem firstEntry_eq_none {mc : Vector McEntry 4} (hnone : ∀ h, ¬ HasSlot mc h) : firstEntry mc = none := by
  have hfirst := firstEntry_isFirst mc
  cases hbest : firstEntry mc with
  | none => rfl
  | some first =>
    rw [hbest] at hfirst
    obtain ⟨-, hs, -, -⟩ := hfirst
    exact absurd hs (hnone _)

/-- The entry that comes first is the only one that does. -/
theorem firstEntry_eq_some {mc : Vector McEntry 4} {h : BitVec 2} (hs : HasSlot mc h)
    (hmin : ∀ j, HasSlot mc j → slotOf mc h < slotOf mc j ∨ (slotOf mc h = slotOf mc j ∧ h.toNat ≤ j.toNat)) :
    firstEntry mc = some (h, slotOf mc h) := by
  have hfirst := firstEntry_isFirst mc
  cases hbest : firstEntry mc with
  | none =>
    rw [hbest] at hfirst
    exact absurd hs (hfirst h (mem_entries h))
  | some first =>
    obtain ⟨f, k⟩ := first
    rw [hbest] at hfirst
    obtain ⟨-, hfs, rfl, hfmin⟩ := hfirst
    have hfh := hfmin h (mem_entries h) hs
    have hhf := hmin f hfs
    have : f = h := BitVec.eq_of_toNat_eq (by omega)
    rw [this]

theorem hasSlot_of_firstEntry {mc : Vector McEntry 4} {h : BitVec 2} {k : Nat} (hfirst : firstEntry mc = some (h, k)) :
    HasSlot mc h := by
  have := firstEntry_isFirst mc
  rw [hfirst] at this
  exact this.2.1

/-! ### `ArmMc` -/

theorem armMc_off {s : State} (now : Word) (h : s.r.deviceClass ≠ .b) :
    armMc now s = { s with t := { s.t with mcslot := { s.t.mcslot with armed := false } } } := by
  rw [armMc, if_pos h]
  rfl

theorem armMc_none {s : State} (now : Word) (hclass : s.r.deviceClass = .b)
    (hnone : firstEntry (s.mc.map (skipEntry s now)) = none) :
    armMc now s = { s with
      mc := s.mc.map (skipEntry s now), t := { s.t with mcslot := { s.t.mcslot with armed := false } } } := by
  rw [armMc, if_neg (not_not.2 hclass)]
  simp only [hnone]
  rfl

theorem armMc_some {s : State} {h : BitVec 2} {k : Nat} (now : Word) (hclass : s.r.deviceClass = .b)
    (hfirst : firstEntry (s.mc.map (skipEntry s now)) = some (h, k)) :
    armMc now s = { s with
      mc := s.mc.map (skipEntry s now)
      r := { s.r with mcslotOwner := h }
      t := { s.t with mcslot := { armed := true, due := slotOpens s k } } } := by
  rw [armMc, if_neg (not_not.2 hclass)]
  simp only [hfirst]
  rfl

/-- A valid entry skips its past slots, another stays. -/
theorem skipEntry_valid {e : McEntry} (s : State) (now : Word) (h : e.valid = true) :
    skipEntry s now e = { e with nextN := nextOf s now e.offset e.pingPeriod e.pingNb e.nextN } := if_pos h

theorem skipEntry_free {e : McEntry} (s : State) (now : Word) (h : e.valid = false) : skipEntry s now e = e :=
  if_neg (by simp [h])

/-- Neither arming procedure reads what the other writes. -/
theorem armMc_armPing_comm (now : Word) (s : State) : armMc now (armPing now s) = armPing now (armMc now s) := by
  by_cases hclass : s.r.deviceClass = .b
  · have hping : (armMc now s).r.deviceClass = .b := by rw [armMc_frame]; exact hclass
    by_cases hassigned : s.p.assigned = true
    · rw [armPing_on now hclass hassigned, armPing_on now hping (by rw [armMc_p]; exact hassigned)]
      cases hfirst : firstEntry (s.mc.map (skipEntry s now)) with
      | none => rw [armMc_none now hclass hfirst]; exact armMc_none now hclass hfirst
      | some first => rw [armMc_some now hclass hfirst]; exact armMc_some now hclass hfirst
    · have hoff : s.p.assigned = false := by simpa using hassigned
      rw [armPing_off now (.inr hoff), armPing_off now (.inr (by rw [armMc_p]; exact hoff))]
      cases hfirst : firstEntry (s.mc.map (skipEntry s now)) with
      | none => rw [armMc_none now hclass hfirst]; exact armMc_none now hclass hfirst
      | some first => rw [armMc_some now hclass hfirst]; exact armMc_some now hclass hfirst
  · have hping : (armMc now s).r.deviceClass ≠ .b := by rw [armMc_frame]; exact hclass
    rw [armPing_off now (.inl hclass), armPing_off now (.inl hping), armMc_off now hclass]
    exact armMc_off now hclass

/-! ### `EnterIdle` -/

/-- An entry at the start of a beacon period: its sequence restarts, and a valid one has a new offset. -/
theorem renewEntry_eq (par : Params) (timeS : Word) (e : McEntry) :
    renewEntry par timeS e = { e with
      offset := if e.valid then pingOffset par timeS e.addr e.pingPeriod else e.offset, nextN := 0 } := by
  unfold renewEntry
  split <;> simp_all

theorem renewSlots_eq (s : State) :
    renewSlots s = { s with
      p := { s.p with
        offset := if s.p.assigned then pingOffset s.par s.b.timeS s.r.devAddr s.p.pingPeriod else s.p.offset
        nextN := 0 }
      mc := Vector.ofFn fun h : Fin 4 => { s.mc[h] with
        offset := if s.mc[h].valid then pingOffset s.par s.b.timeS s.mc[h].addr s.mc[h].pingPeriod else s.mc[h].offset
        nextN := 0 } } := by
  have hmc : s.mc.map (renewEntry s.par s.b.timeS) = Vector.ofFn fun h : Fin 4 => { s.mc[h] with
      offset := if s.mc[h].valid then pingOffset s.par s.b.timeS s.mc[h].addr s.mc[h].pingPeriod else s.mc[h].offset
      nextN := 0 } := Vector.ext fun i hi => by simp [renewEntry_eq]
  rw [← hmc]
  rfl

/-- The default content of `PingRand` is the number of the first two bytes of its block. -/
theorem toNat_aesPingRand (t addr : Word) :
    (aesPingRand t addr).toNat = unLe ((aes128 0 (le32 t ++ le32 addr ++ List.replicate 8 0)).take 2) := by
  have hlt := unLe_lt ((aes128 0 (le32 t ++ le32 addr ++ List.replicate 8 0)).take 2)
  rw [List.length_take, aes128_length] at hlt
  rw [aesPingRand, numAt, slice, List.drop_zero, BitVec.toNat_ofNat]
  exact Nat.mod_eq_of_lt hlt

/-! ### The obligations -/

/-- Settles O49: `pingOffset_toNat` with the function the parameters choose; the procedure is its definition, with the
entries renewed one by one. -/
theorem enterIdleProcedure : Obligations.EnterIdleProcedure := by
  intro now s s1 s2
  refine ⟨fun t addr period h1 h2 => ⟨fun haes => ?_, fun hother => ?_⟩, ?_⟩
  · rw [pingOffset_toNat s.par t addr period h1 h2, pingRand, haes]
    exact congrArg (· % period.toNat) (toNat_aesPingRand t addr)
  · rw [pingOffset_toNat s.par t addr period h1 h2, pingRand, hother]
  · have hs1 : { (renewSlots s).enter .idle with
        t := (renewSlots s).t.arm .beacon (s.b.epoch + BitVec.ofNat 32 s.par.beaconInterval
          - BitVec.ofNat 32 s.par.beaconGuard) } = s1 := by
      rw [renewSlots_eq]
      rfl
    have htrace : s2.trace = s.trace := by simp only [s2, armMc_trace, armPing_trace, s1]
    have hidle : enterIdle now s = (s2.setSlot .none).log .radioSleep :=
      congrArg (fun u => ((armMc now (armPing now u)).setSlot .none).log .radioSleep) hs1
    rw [hidle, ← htrace]
    rfl

/-- Settles O50: `armPing_off` and `armPing_on`, with the search of `nextOf_spec`. -/
theorem armPingProcedure : Obligations.ArmPingProcedure := by
  intro now s
  refine ⟨armPing_off now, fun hclass hassigned hn => ?_⟩
  obtain ⟨hle, hbound, hpast, hstop⟩ := nextOf_spec s now s.p.offset s.p.pingPeriod hn
  exact ⟨_, hle, hbound, hpast, hstop, armPing_on now hclass hassigned⟩

/-- Settles O51: every valid entry searches on its own (`nextOf_spec`), and the entry armed is the one that comes
first. -/
theorem armMcProcedure : Obligations.ArmMcProcedure := by
  intro now s left index
  refine ⟨armMc_armPing_comm now s, armMc_off now, fun hclass hn => ⟨s.mc.map (skipEntry s now), fun h => ?_, ?_, ?_⟩⟩
  · rw [at4_map]
    cases hvalid : (at4 s.mc h).valid with
    | false =>
      rw [skipEntry_free s now hvalid]
      exact ⟨rfl, fun _ => rfl, nofun⟩
    | true =>
      rw [skipEntry_valid s now hvalid]
      obtain ⟨hle, hbound, hpast, hstop⟩ := nextOf_spec s now (at4 s.mc h).offset (at4 s.mc h).pingPeriod (hn h)
      refine ⟨rfl, nofun, fun _ => ⟨hle, hbound, hpast, fun hleft => hstop ?_⟩⟩
      have hslot := hleft.2
      rwa [at4_map, skipEntry_valid s now hvalid] at hslot
  · intro hnone
    exact armMc_none now hclass (firstEntry_eq_none hnone)
  · intro h hleft hmin
    exact armMc_some now hclass (firstEntry_eq_some hleft hmin)

end Sys2Proof.Proofs.Slots
end

section
/-! The beacon tracker (45_classb_beacon.md R217 to R220, R223, R224): started, driven by its events, and stopped. -/

namespace Sys2Proof.Proofs.ClassB

open Sys2Proof Sys2Proof.Machine
open Sys2Proof.Proofs.FrameCodec (raise_eq_failedWith done_eq_answeredOk)
open Sys2Proof.Proofs.RxWindows (regionWindow_state regionWindow_trace regionRxConfig_trace listen_state)

/-! ### Which function each command runs -/

theorem exec_bcnAcquire (now : Word) (s : State) : exec (.bcnAcquire now) s = execBcnAcquire now s := rfl

theorem exec_bcnRxBeacon (now tBeacon timeS : Word) (s : State) :
    exec (.bcnRxBeacon now tBeacon timeS) s = execBcnRxBeacon now tBeacon timeS s := rfl

theorem exec_bcnRxTimeout (now : Word) (s : State) : exec (.bcnRxTimeout now) s = execBcnRxTimeout now s := rfl

theorem exec_bcnTimer (now : Word) (s : State) : exec (.bcnTimer now) s = execBcnTimer now s := rfl

theorem exec_bcnHalt (s : State) : exec .bcnHalt s = execBcnHalt s := rfl

theorem exec_pingTimer (now : Word) (s : State) : exec (.pingTimer now) s = execPingTimer now s := rfl

theorem exec_mcslotTimer (now : Word) (s : State) : exec (.mcslotTimer now) s = execMcslotTimer now s := rfl

theorem exec_slotRxDone (outcome : BitVec 2) (s : State) :
    exec (.slotRxDone outcome) s = execSlotRxDone outcome s := rfl

/-! ### Receptions the scheduler opens and closes -/

/-- A beacon window opened. -/
theorem openBeacon_state (limit : Word) (s : State) :
    openBeacon limit s = { s with
      r := { s.r with rxSlot := .beacon }
      trace := s.trace ++ [.radioStandby, .regionRxConfig .beacon 0 none, .radioReceive limit]
      script := (openBeacon limit s).script } := by
  have h := listen_state .beacon 0 none limit ((s.setSlot .beacon).log .radioStandby)
  rw [log_trace, setSlot_trace, List.append_assoc] at h
  exact h

theorem callsOnly_log (s : State) (c : Call) : CallsOnly s (s.log c) := rfl

theorem callsOnly_setSlot {s s' : State} (slot : RxSlot) (h : CallsOnly s s') :
    CallsOnly (s.setSlot slot) (s'.setSlot slot) := by
  unfold CallsOnly at *
  rw [← h]
  rfl

/-- A class B slot window opened, with the timeout the Region gives. -/
theorem openSlot_state (slot : RxSlot) (arg : Byte) (mcPhy : Option (Word × Byte)) (s : State) :
    openSlot slot arg mcPhy s = { s with
      r := { s.r with rxSlot := slot }
      trace := s.trace ++ [.regionPingWindow s.p.symto, .radioStandby, .regionRxConfig slot arg mcPhy,
        .radioReceive (regionWindow (.regionPingWindow s.p.symto) s).1.2]
      script := (openSlot slot arg mcPhy s).script } := by
  have htrace : (openSlot slot arg mcPhy s).trace
      = s.trace ++ [.regionPingWindow s.p.symto, .radioStandby, .regionRxConfig slot arg mcPhy,
        .radioReceive (regionWindow (.regionPingWindow s.p.symto) s).1.2] := by
    simp [openSlot, Machine.listen, regionRxConfig_trace, regionWindow_trace]
  have hwindow := callsOnly_setSlot slot (regionWindow_frame (.regionPingWindow s.p.symto) s)
  rw [← htrace]
  exact ((hwindow.trans (callsOnly_log _ .radioStandby)).trans (listen_frame slot arg mcPhy _ _)).symm

theorem leaveClassB_eq (r : Regs) :
    leaveClassB r = { r with deviceClass := if r.deviceClass = .b then .a else r.deviceClass } := by
  unfold leaveClassB
  split <;> rfl

/-- The radio listens to a beacon or in a class B slot. -/
def ListensClassB (r : Regs) : Prop := r.rxSlot = .beacon ∨ r.rxSlot = .pingSlot ∨ r.rxSlot = .mcSlot

/-- The effects of a halt, field by field. -/
theorem haltTracker_listening {s : State} (h : ListensClassB s.r) :
    haltTracker s = { s with
      b := { Beacon.reset s.par with symto := s.b.symto }
      t := s.t.disarmClassB
      r := { leaveClassB s.r with rxSlot := .none }
      path := s.path ++ [.acquisition]
      trace := s.trace ++ [.radioSleep] } := by
  have hslot : ListensClassB (leaveClassB s.r) := by rw [leaveClassB_eq]; exact h
  exact if_pos hslot

theorem haltTracker_idle {s : State} (h : ¬ ListensClassB s.r) :
    haltTracker s = { s with
      b := { Beacon.reset s.par with symto := s.b.symto }
      t := s.t.disarmClassB
      r := leaveClassB s.r
      path := s.path ++ [.acquisition] } := by
  have hslot : ¬ ListensClassB (leaveClassB s.r) := by rw [leaveClassB_eq]; exact h
  exact if_neg hslot

/-! ### `BCN.ACQUIRE` and `BCN.HALT` (R217, R224) -/

/-- The registers of a tracker that has just been started. -/
def acquiring (s : State) : State :=
  { s with
    b := { s.b with run := true, state := .acquisition, acqPending := true, lastRxValid := false,
                    symto := s.par.bcnSymtoDef }
    p := { s.p with symto := s.par.pingSymtoDef }
    path := s.path ++ [.acquisition] }

theorem bcnAcquire_running {s : State} (now : Word) (h : s.b.run = true) :
    exec (.bcnAcquire now) s = .next (failedWith .errBusy s) := by
  rw [exec_bcnAcquire, execBcnAcquire, if_pos h, raise_eq_failedWith]

theorem bcnAcquire_classC {s : State} (now : Word) (h : s.b.run = false) (hclass : s.r.deviceClass = .c) :
    exec (.bcnAcquire now) s = .next (failedWith .errParam s) := by
  rw [exec_bcnAcquire, execBcnAcquire, if_neg (by simp [h]), if_pos hclass, raise_eq_failedWith]

theorem bcnAcquire_starts {s : State} (now : Word) (h : s.b.run = false) (hclass : s.r.deviceClass ≠ .c) :
    exec (.bcnAcquire now) s
      = .next (answeredOk [] (openBeacon (BitVec.ofNat 32 s.par.beaconInterval) (acquiring s))) := by
  rw [exec_bcnAcquire, execBcnAcquire, if_neg (by simp [h]), if_neg hclass, done_eq_answeredOk]
  rfl

/-- Settles O47: `bcnAcquire_starts` with the reception it opens, and the halt of a tracker whose reception is of class
B or not. -/
theorem beaconStartAndStop : Obligations.BeaconStartAndStop := by
  intro now s
  refine ⟨bcnAcquire_running now, bcnAcquire_classC now, fun hrun hclass => ?started, ?halted⟩
  case started =>
    refine ⟨_, bcnAcquire_starts now hrun hclass, ?_⟩
    rw [openBeacon_state]
    rfl
  case halted =>
    intro listening
    rw [exec_bcnHalt, execBcnHalt, done_eq_answeredOk]
    by_cases hlisten : listening
    · rw [haltTracker_listening hlisten, leaveClassB_eq, if_pos hlisten, if_pos hlisten]
      rfl
    · rw [haltTracker_idle hlisten, leaveClassB_eq, if_neg hlisten, if_neg hlisten, List.append_nil]
      rfl

/-! ### The beacon events (R218 to R220, R223) -/

/-- A beacon reception is going on, and the tracker waits for its end. -/
def AwaitsBeacon (s : State) : Prop :=
  s.b.run = true ∧ s.r.rxSlot = .beacon ∧ (s.b.state = .acquisition ∨ s.b.state = .rx)

theorem awaitsBeacon_iff (s : State) : awaitsBeacon s = true ↔ AwaitsBeacon s := by
  simp [awaitsBeacon, AwaitsBeacon, and_assoc]

/-- The beacon counts as lost. -/
def BeaconGone (s : State) (now : Word) : Prop :=
  s.b.lastRxValid = false ∨ s.par.maxBeaconLess < (now - s.b.lastRx).toNat

theorem beaconGone_iff (s : State) (now : Word) : beaconGone s now = true ↔ BeaconGone s now := by
  simp [beaconGone, BeaconGone]

theorem bcnRxBeacon_unexpected {s : State} (now tBeacon timeS : Word) (h : ¬ AwaitsBeacon s) :
    exec (.bcnRxBeacon now tBeacon timeS) s = .next (failedWith .errParam s) := by
  rw [exec_bcnRxBeacon, execBcnRxBeacon, if_pos (by simpa [← awaitsBeacon_iff] using h), raise_eq_failedWith]

/-- The registers a received beacon sets. -/
def lockedOn (tBeacon timeS : Word) (s : State) : State :=
  { s with
    b := { s.b with state := .locked, lastRx := tBeacon, lastRxValid := true, epoch := tBeacon, timeS := timeS,
                    symto := s.par.bcnSymtoDef, acqPending := false }
    p := { s.p with symto := s.par.pingSymtoDef }
    path := s.path ++ [.locked] }

theorem bcnRxBeacon_locks {s : State} (now tBeacon timeS : Word) (h : AwaitsBeacon s) :
    exec (.bcnRxBeacon now tBeacon timeS) s = .next (answeredOk [1] (enterIdle now (lockedOn tBeacon timeS s))) := by
  rw [exec_bcnRxBeacon, execBcnRxBeacon, if_neg (by simp [(awaitsBeacon_iff s).2 h]), done_eq_answeredOk]
  rfl

theorem bcnRxTimeout_unexpected {s : State} (now : Word) (h : ¬ AwaitsBeacon s) :
    exec (.bcnRxTimeout now) s = .next (failedWith .errParam s) := by
  rw [exec_bcnRxTimeout, execBcnRxTimeout, if_pos (by simpa [← awaitsBeacon_iff] using h), raise_eq_failedWith]

/-- A beacon has been missed: the two transient states are recorded. -/
def missed (s : State) : State := (s.enter .timeout).enter .beaconMissed

theorem bcnRxTimeout_lost {s : State} {now : Word} (h : AwaitsBeacon s) (hgone : BeaconGone s now) :
    exec (.bcnRxTimeout now) s = .next (answeredOk [if s.b.acqPending then 3 else 2] (lostBeacon (missed s))) := by
  have hmissed : beaconGone (missed s) now = true := (beaconGone_iff s now).2 hgone
  rw [exec_bcnRxTimeout, execBcnRxTimeout, if_neg (by simp [(awaitsBeacon_iff s).2 h])]
  exact if_pos hmissed

theorem bcnRxTimeout_extrapolates {s : State} {now : Word} (h : AwaitsBeacon s) (hgone : ¬ BeaconGone s now) :
    exec (.bcnRxTimeout now) s
      = .next (answeredOk [0] (enterIdle now ((extrapolate (missed s)).enter .reacquisition))) := by
  have hmissed : ¬ beaconGone (missed s) now = true := fun hm => hgone ((beaconGone_iff s now).1 hm)
  rw [exec_bcnRxTimeout, execBcnRxTimeout, if_neg (by simp [(awaitsBeacon_iff s).2 h])]
  exact if_neg hmissed

theorem bcnTimer_stale {s : State} (now : Word) (h : s.b.run = false ∨ (s.b.state ≠ .idle ∧ s.b.state ≠ .guard)) :
    exec (.bcnTimer now) s = .next (failedWith .errParam s) := by
  rw [exec_bcnTimer, execBcnTimer]
  by_cases hrun : s.b.run = false
  · rw [if_pos hrun, raise_eq_failedWith]
  · obtain ⟨hidle, hguard⟩ := h.resolve_left hrun
    rw [if_neg hrun, if_neg hidle, if_neg hguard, raise_eq_failedWith]

/-- The guard time begins: the slot timers stop. -/
def guarding (s : State) : State :=
  { s with
    b := { s.b with state := .guard }
    t := { s.t with ping := { s.t.ping with armed := false }, mcslot := { s.t.mcslot with armed := false } }
    path := s.path ++ [.guard] }

theorem bcnTimer_idle {s : State} (now : Word) (hrun : s.b.run = true) (hidle : s.b.state = .idle) :
    let w := regionWindow (.regionBeaconWindow s.b.symto) (guarding s)
    exec (.bcnTimer now) s = .next (answeredOk [] { w.2 with
      t := { (guarding s).t with
        beacon := { armed := true, due := s.b.epoch + BitVec.ofNat 32 s.par.beaconInterval + w.1.1 } } }) := by
  intro w
  have ht : w.2.t = (guarding s).t := by simp only [w]; rw [regionWindow_state]
  have hb : w.2.b = (guarding s).b := by simp only [w]; rw [regionWindow_state]
  have hpar : w.2.par = s.par := by simp only [w]; rw [regionWindow_state]; rfl
  have hstep : execBcnTimer now s = done [] { w.2 with
      t := w.2.t.arm .beacon (w.2.b.epoch + BitVec.ofNat 32 w.2.par.beaconInterval + w.1.1) } := by
    rw [execBcnTimer, if_neg (by simp [hrun]), if_pos hidle]
    rfl
  rw [exec_bcnTimer, hstep, done_eq_answeredOk, ht, hb, hpar]
  rfl

theorem bcnTimer_guard {s : State} (now : Word) (hrun : s.b.run = true) (hguard : s.b.state = .guard) :
    let w := regionWindow (.regionBeaconWindow s.b.symto) (s.enter .rx)
    exec (.bcnTimer now) s = .next (answeredOk [] (openBeacon w.1.2 w.2)) := by
  intro w
  rw [exec_bcnTimer, execBcnTimer, if_neg (by simp [hrun]), if_neg (by simp [hguard]), if_pos hguard]
  rfl

/-- What the Region answers about a window depends only on the calls made and the answers held ready. -/
theorem regionWindow_congr (c : Call) {s u : State} (htrace : u.trace = s.trace) (hscript : u.script = s.script) :
    (regionWindow c u).1 = (regionWindow c s).1 ∧ (regionWindow c u).2.script = (regionWindow c s).2.script := by
  unfold regionWindow
  simp only [log_script, log_trace, hscript, htrace]
  cases s.script.window with
  | nil => exact ⟨rfl, hscript⟩
  | cons w rest => exact ⟨rfl, rfl⟩

/-- Settles O48: one rule for each event and each state of the tracker it can come in. -/
theorem beaconEvents : Obligations.BeaconEvents := by
  intro now tBeacon timeS s expected
  refine ⟨fun h => ⟨bcnRxBeacon_unexpected now tBeacon timeS h, bcnRxTimeout_unexpected now h⟩,
    bcnRxBeacon_locks now tBeacon timeS, ⟨fun h hgone => ?lost, fun h hgone => ?missed⟩, bcnTimer_stale now,
    fun hrun hidle => ?guard, fun hrun hguard => ?rx⟩
  case lost =>
    rw [bcnRxTimeout_lost h hgone]
    have hpath : (lostBeacon (missed s)).path = s.path ++ [.timeout, .beaconMissed, .lost] := by
      simp [lostBeacon, missed]
    rw [← hpath]
    simp only [lostBeacon, missed, leaveClassB_eq]
    rfl
  case missed =>
    rw [bcnRxTimeout_extrapolates h hgone]
    have hpath : ((extrapolate (missed s)).enter .reacquisition).path
        = s.path ++ [.timeout, .beaconMissed, .reacquisition] := by
      simp [extrapolate, missed]
    rw [← hpath]
    rfl
  case guard =>
    obtain ⟨hans, hscript⟩ := regionWindow_congr (.regionBeaconWindow s.b.symto) (u := guarding s) (s := s) rfl rfl
    rw [bcnTimer_idle now hrun hidle, hans, regionWindow_state, hscript]
    rfl
  case rx =>
    obtain ⟨hans, -⟩ := regionWindow_congr (.regionBeaconWindow s.b.symto) (u := s.enter .rx) (s := s) rfl rfl
    refine ⟨_, bcnTimer_guard now hrun hguard, ?_⟩
    rw [openBeacon_state, hans, regionWindow_state, List.append_assoc]
    rfl

end Sys2Proof.Proofs.ClassB
end

section
/-! The ping and multicast slots (45_classb_beacon.md R225, R228 to R231): the slot parameters, what the two slot timers
do, the end of a slot, and the priority of multicast slots within one batch of events. -/

namespace Sys2Proof.Proofs.SlotTimers

open Sys2Proof Sys2Proof.Machine
open Sys2Proof.Proofs.FrameCodec (raise_eq_failedWith done_eq_answeredOk)
open Sys2Proof.Proofs.ClassB

/-! ### `PING.SET_INFO` (R225) -/

theorem pingSetInfo_placed {s : State} (per : BitVec 3) (now : Word) (h : s.b.run = true ∧ s.b.lastRxValid = true) :
    let placed : State := { setPingInfo per s with
      p := { (setPingInfo per s).p with
        offset := pingOffset s.par s.b.timeS s.r.devAddr (pingPeriodOf per), nextN := 0 } }
    exec (.pingSetInfo per now) s
      = .next (answeredOk [] (if s.b.state = .idle then armPing now placed else placed)) :=
  if_pos h

theorem pingSetInfo_unplaced {s : State} (per : BitVec 3) (now : Word)
    (h : ¬ (s.b.run = true ∧ s.b.lastRxValid = true)) :
    exec (.pingSetInfo per now) s = .next (answeredOk [] (setPingInfo per s)) :=
  if_neg h

/-! ### `PING.TIMER` (R228) -/

/-- A slot of the device's sequence can open. -/
def PingReady (s : State) : Prop :=
  s.b.run = true ∧ s.b.state = .idle ∧ s.r.deviceClass = .b ∧ s.p.assigned = true
    ∧ s.p.nextN.toNat < s.p.pingNb.toNat

/-- The index of the device's next slot. -/
def pingSlotIndex (s : State) : Nat := s.p.offset.toNat + s.p.nextN.toNat * s.p.pingPeriod.toNat

/-- The device's slot yields to another reception. -/
def PingYields (s : State) : Prop :=
  s.r.rxSlot ≠ .none ∨ (s.t.mcslot.armed = true ∧ s.t.mcslot.due = slotOpens s (pingSlotIndex s))

/-- The device's slot is used up. -/
def pingTaken (s : State) : State := { s with p := { s.p with nextN := s.p.nextN + 1 } }

theorem pingYields_iff (s : State) : pingYields (pingTaken s) (pingSlotIndex s) = true ↔ PingYields s := by
  have : slotTime (pingTaken s) (pingSlotIndex s) = slotOpens s (pingSlotIndex s) := rfl
  simp only [pingYields, this, PingYields, Bool.or_eq_true, bne_iff_ne, Bool.and_eq_true, beq_iff_eq]
  rfl

theorem pingReady_iff (s : State) :
    ¬ (s.b.run = false ∨ s.b.state ≠ .idle ∨ s.r.deviceClass ≠ .b ∨ s.p.assigned = false ∨ s.p.pingNb ≤ s.p.nextN)
      ↔ PingReady s := by
  simp [PingReady, BitVec.le_def]

theorem pingTimer_stale {s : State} (now : Word) (h : ¬ PingReady s) :
    exec (.pingTimer now) s = .next (failedWith .errParam s) := by
  rw [exec_pingTimer, execPingTimer, if_pos (by rwa [← pingReady_iff, not_not] at h), raise_eq_failedWith]

theorem pingTimer_yields {s : State} (now : Word) (h : PingReady s) (hy : PingYields s) :
    exec (.pingTimer now) s = .next (answeredOk ([1] ++ leBytes 2 (pingSlotIndex s)) (armPing now (pingTaken s))) := by
  rw [exec_pingTimer, execPingTimer, if_neg ((pingReady_iff s).2 h)]
  exact if_pos ((pingYields_iff s).2 hy)

theorem pingTimer_opens {s : State} (now : Word) (h : PingReady s) (hy : ¬ PingYields s) :
    exec (.pingTimer now) s = .next (answeredOk ([0] ++ leBytes 2 (pingSlotIndex s))
      (armPing now (openSlot .pingSlot 0 none (pingTaken s)))) := by
  rw [exec_pingTimer, execPingTimer, if_neg ((pingReady_iff s).2 h)]
  exact if_neg fun hyields => hy ((pingYields_iff s).1 hyields)

/-! ### `MCSLOT.TIMER` (R229) -/

/-- The entry the multicast timer runs for. -/
def ownerEntry (s : State) : McEntry := at4 s.mc s.r.mcslotOwner

/-- A slot of the owner's sequence can open. -/
def McReady (s : State) : Prop :=
  s.b.run = true ∧ s.b.state = .idle ∧ s.r.deviceClass = .b ∧ (ownerEntry s).valid = true
    ∧ (ownerEntry s).nextN.toNat < (ownerEntry s).pingNb.toNat

/-- The index of the owner's next slot. -/
def mcSlotIndex (s : State) : Nat :=
  (ownerEntry s).offset.toNat + (ownerEntry s).nextN.toNat * (ownerEntry s).pingPeriod.toNat

/-- The multicast slot yields to another reception. -/
def McYields (s : State) : Prop :=
  s.r.rxSlot = .win1 ∨ s.r.rxSlot = .win2 ∨ s.r.rxSlot = .beacon ∨ s.r.rxSlot = .mcSlot

/-- The owner's slot is used up. -/
def mcTaken (s : State) : State :=
  { s with mc := set4 s.mc s.r.mcslotOwner { ownerEntry s with nextN := (ownerEntry s).nextN + 1 } }

theorem mcYields_iff (s : State) : mcYields (mcTaken s) = true ↔ McYields s := by
  simp [mcYields, McYields, mcTaken, or_assoc]

theorem mcReady_iff (s : State) :
    ¬ (s.b.run = false ∨ s.b.state ≠ .idle ∨ s.r.deviceClass ≠ .b ∨ (at4 s.mc s.r.mcslotOwner).valid = false
        ∨ (at4 s.mc s.r.mcslotOwner).pingNb ≤ (at4 s.mc s.r.mcslotOwner).nextN)
      ↔ McReady s := by
  simp [McReady, ownerEntry, BitVec.le_def]

theorem mcslotTimer_stale {s : State} (now : Word) (h : ¬ McReady s) :
    exec (.mcslotTimer now) s = .next (failedWith .errParam s) := by
  rw [exec_mcslotTimer, execMcslotTimer]
  exact if_pos (by rwa [← mcReady_iff, not_not] at h)

theorem mcslotTimer_yields {s : State} (now : Word) (h : McReady s) (hy : McYields s) :
    exec (.mcslotTimer now) s = .next (answeredOk ([1] ++ leBytes 2 (mcSlotIndex s) ++ [s.r.mcslotOwner.setWidth 8])
      (armMc now (mcTaken s))) := by
  rw [exec_mcslotTimer, execMcslotTimer]
  exact (if_neg ((mcReady_iff s).2 h)).trans (if_pos ((mcYields_iff s).2 hy))

theorem mcslotTimer_opens {s : State} (now : Word) (h : McReady s) (hy : ¬ McYields s) :
    exec (.mcslotTimer now) s = .next (answeredOk ([0] ++ leBytes 2 (mcSlotIndex s) ++ [s.r.mcslotOwner.setWidth 8])
      (armMc now (openSlot .mcSlot (s.r.mcslotOwner.setWidth 8)
        (some ((ownerEntry s).freq, (ownerEntry s).datarate)) (mcTaken s)))) := by
  rw [exec_mcslotTimer, execMcslotTimer]
  exact (if_neg ((mcReady_iff s).2 h)).trans (if_neg fun hyields => hy ((mcYields_iff s).1 hyields))

/-! ### `SLOT.RX_DONE` (R231) -/

theorem slotRxDone_eq (outcome : BitVec 2) (s : State) :
    exec (.slotRxDone outcome) s = .next
      (if s.r.rxSlot = .pingSlot ∨ s.r.rxSlot = .mcSlot then
        { answeredOk [(slotCode s.r.rxSlot).setWidth 8] s with
          r := { s.r with rxSlot := .none }, trace := s.trace ++ [.radioSleep] }
       else failedWith .errParam s) := by
  rw [exec_slotRxDone, execSlotRxDone]
  by_cases h : s.r.rxSlot = .pingSlot ∨ s.r.rxSlot = .mcSlot
  · rw [if_neg fun ⟨hping, hmc⟩ => h.elim hping hmc, if_pos h]
    rfl
  · rw [if_pos (not_or.1 h), if_neg h, raise_eq_failedWith]

/-- Settles O53: the three rules of each slot timer, with what `openSlot` leaves. -/
theorem slotCommands : Obligations.SlotCommands := by
  intro per now outcome s
  refine ⟨?info, ⟨pingTimer_stale now, pingTimer_yields now, fun h hy => ?pingOpens⟩,
    ⟨mcslotTimer_stale now, mcslotTimer_yields now, fun h hy => ?mcOpens⟩, slotRxDone_eq outcome s⟩
  case info =>
    intro period p placed
    by_cases h : s.b.run = true ∧ s.b.lastRxValid = true
    · rw [if_pos h]
      exact pingSetInfo_placed per now h
    · rw [if_neg h]
      exact pingSetInfo_unplaced per now h
  case pingOpens =>
    refine ⟨_, _, pingTimer_opens now h hy, rfl, ?_⟩
    obtain ⟨hans, -⟩ := regionWindow_congr (.regionPingWindow s.p.symto) (u := pingTaken s) (s := s) rfl rfl
    have hopen := openSlot_state .pingSlot 0 none (pingTaken s)
    rw [show (pingTaken s).p.symto = s.p.symto from rfl, hans] at hopen
    rw [hopen]
    rfl
  case mcOpens =>
    refine ⟨_, _, mcslotTimer_opens now h hy, rfl, ?_⟩
    obtain ⟨hans, -⟩ := regionWindow_congr (.regionPingWindow s.p.symto) (u := mcTaken s) (s := s) rfl rfl
    have hopen := openSlot_state .mcSlot (s.r.mcslotOwner.setWidth 8)
      (some ((ownerEntry s).freq, (ownerEntry s).datarate)) (mcTaken s)
    rw [show (mcTaken s).p.symto = s.p.symto from rfl, hans] at hopen
    rw [hopen]
    rfl

/-! ### The radio after a slot timer -/

theorem openSlot_r (slot : RxSlot) (arg : Byte) (mcPhy : Option (Word × Byte)) (s : State) :
    (openSlot slot arg mcPhy s).r = { s.r with rxSlot := slot } := by rw [openSlot_state]

theorem armMc_rxSlot (now : Word) (s : State) : (armMc now s).r.rxSlot = s.r.rxSlot := by rw [armMc_frame]

/-- `PING.TIMER` opens a slot, or leaves the registers `R.*` and the calls as they are. -/
theorem pingTimer_cases (now : Word) (s : State) :
    (∃ t, exec (.pingTimer now) s = .next t ∧ t.r = s.r ∧ t.trace = s.trace)
    ∨ (PingReady s ∧ ¬ PingYields s) := by
  by_cases h : PingReady s
  · by_cases hy : PingYields s
    · exact .inl ⟨_, pingTimer_yields now h hy, armPing_r now (pingTaken s), armPing_trace now (pingTaken s)⟩
    · exact .inr ⟨h, hy⟩
  · exact .inl ⟨_, pingTimer_stale now h, rfl, rfl⟩

/-- A slot that yields leaves the registers `R.*` as they are. -/
theorem pingTimer_r_of_yields {now : Word} {s t : State} (ht : exec (.pingTimer now) s = .next t) (hy : PingYields s) :
    t.r = s.r := by
  rcases pingTimer_cases now s with ⟨u, hu, hr, -⟩ | ⟨-, hno⟩
  · cases hu.symm.trans ht
    exact hr
  · exact absurd hy hno

theorem not_mcYields {s : State} (h : s.r.rxSlot = .none ∨ s.r.rxSlot = .pingSlot) : ¬ McYields s := by
  rintro (h1 | h1 | h1 | h1) <;> simp [h1] at h

/-- A multicast slot that opens has configured the Radio for it. -/
theorem mcslotTimer_opened {s : State} (now : Word) (h : McReady s) (hy : ¬ McYields s) :
    ∃ t, exec (.mcslotTimer now) s = .next t ∧ t.r.rxSlot = .mcSlot
      ∧ t.trace = s.trace ++ [.regionPingWindow s.p.symto, .radioStandby,
        .regionRxConfig .mcSlot (s.r.mcslotOwner.setWidth 8) (some ((ownerEntry s).freq, (ownerEntry s).datarate)),
        .radioReceive (regionWindow (.regionPingWindow s.p.symto) (mcTaken s)).1.2] := by
  refine ⟨_, mcslotTimer_opens now h hy, (armMc_rxSlot _ _).trans ?_, (armMc_trace _ _).trans ?_⟩
  · rw [openSlot_r]
  · rw [openSlot_state]
    rfl

/-! ### A batch of events (60_exceptions.md R287, R288) -/

/-- While the radio receives: the command completes a step, the radio still receives, and no unicast slot has opened. -/
def StaysBusy (s : State) (o : Out) : Prop :=
  ∃ t, o = .next t ∧ t.r.rxSlot ≠ .none
    ∧ ∃ calls, t.trace = s.trace ++ calls ∧ ∀ arg phy, Call.regionRxConfig .pingSlot arg phy ∉ calls

/-- A command that leaves the slot identity and makes none of those calls. -/
theorem StaysBusy.of_kept {s t : State} {calls : List Call} (hbusy : s.r.rxSlot ≠ .none)
    (hslot : t.r.rxSlot = s.r.rxSlot) (htrace : t.trace = s.trace ++ calls)
    (hcalls : ∀ arg phy, Call.regionRxConfig .pingSlot arg phy ∉ calls) : StaysBusy s (.next t) :=
  ⟨t, rfl, hslot ▸ hbusy, calls, htrace, hcalls⟩

theorem staysBusy_mcslotTimer {s : State} (now : Word) (hbusy : s.r.rxSlot ≠ .none) :
    StaysBusy s (exec (.mcslotTimer now) s) := by
  by_cases h : McReady s
  · by_cases hy : McYields s
    · rw [mcslotTimer_yields now h hy]
      exact .of_kept (calls := []) hbusy (armMc_rxSlot _ _) ((armMc_trace _ _).trans (List.append_nil _).symm) (by simp)
    · obtain ⟨t, ht, hslot, htrace⟩ := mcslotTimer_opened now h hy
      exact ⟨t, ht, by simp [hslot], _, htrace, by simp⟩
  · rw [mcslotTimer_stale now h]
    exact .of_kept (calls := []) hbusy rfl (List.append_nil _).symm (by simp)

theorem staysBusy_pingTimer {s : State} (now : Word) (hbusy : s.r.rxSlot ≠ .none) :
    StaysBusy s (exec (.pingTimer now) s) := by
  rcases pingTimer_cases now s with ⟨t, ht, hr, htrace⟩ | ⟨-, hno⟩
  · rw [ht]
    exact .of_kept (calls := []) hbusy (by rw [hr]) (htrace.trans (List.append_nil _).symm) (by simp)
  · exact absurd (.inl hbusy) hno

theorem staysBusy_rxwOpen {s : State} (win2 : Bool) (hbusy : s.r.rxSlot ≠ .none) :
    StaysBusy s (exec (.rxwOpen win2) s) := by
  have hwin : winSlot win2 ≠ .none ∧ winSlot win2 ≠ .pingSlot := by cases win2 <;> decide
  cases hans : (RxWindows.openConfig win2 s).1 with
  | false =>
    rw [RxWindows.rxwOpen_refused hans, RxWindows.openConfig_state]
    exact .of_kept hbusy rfl rfl (by simp [hwin.2.symm])
  | true =>
    rw [RxWindows.rxwOpen_accepted hans, RxWindows.openConfig_state]
    exact ⟨_, rfl, hwin.1, _, List.append_assoc _ _ _, by simp [hwin.2.symm]⟩

theorem staysBusy_ackTimeout {s : State} (hbusy : s.r.rxSlot ≠ .none) : StaysBusy s (exec .ackTimeout s) := by
  by_cases hrun : s.r.ackRetryCnt = 0
  · rw [DutyCycleAdr.ackTimeout_idle hrun]
    exact .of_kept (calls := []) hbusy rfl (List.append_nil _).symm (by simp)
  · by_cases hlast : s.r.ackRetries.toNat ≤ s.r.ackRetryCnt.toNat
    · rw [DutyCycleAdr.ackTimeout_exhausted hrun hlast]
      exact .of_kept (calls := [.regionRestoreDefaults]) hbusy rfl rfl (by simp)
    · rw [DutyCycleAdr.ackTimeout_retransmit hrun (by omega)]
      by_cases hodd : (s.r.ackRetryCnt + 1).toNat % 2 = 1
      · rw [DutyCycleAdr.ackStep_odd hodd]
        exact .of_kept (calls := [.regionNextLowerDr s.r.chDatarate]) hbusy rfl rfl (by simp)
      · rw [DutyCycleAdr.ackStep_even hodd]
        exact .of_kept (calls := []) hbusy rfl (List.append_nil _).symm (by simp)

theorem staysBusy_dcSchedule {s : State} (now : Word) (allow : Bool) (hbusy : s.r.rxSlot ≠ .none) :
    StaysBusy s (exec (.dcSchedule now allow) s) := by
  have hasked := DutyCycleAdr.regionNextChannel_state now s.r.chDatarate s.r.joined (aggWait s.r now) s
  cases hans : (regionNextChannel now s.r.chDatarate s.r.joined (aggWait s.r now) s).1 with
  | none =>
    rw [DutyCycleAdr.dcSchedule_noChannel allow hans, hasked]
    exact .of_kept hbusy rfl rfl (by simp)
  | some answer =>
    obtain ⟨ch, w⟩ := answer
    rw [DutyCycleAdr.dcSchedule_channel allow hans, hasked]
    refine .of_kept (calls := [.regionNextChannel now s.r.chDatarate s.r.joined (aggWait s.r now)])
      hbusy ?_ ?_ (by simp)
    · split
      · rfl
      · split <;> rfl
    · split
      · rfl
      · split <;> rfl

/-- The flags of the slot timers and the core timers. -/
def lateFlags : List (BitVec 4) := [9, 10, 11, 12, 13, 14]

/-- The commands that answer them. -/
def isLate : Instr → Bool
  | .mcslotTimer .. => true
  | .pingTimer .. => true
  | .rxwOpen .. => true
  | .ackTimeout => true
  | .dcSchedule .. => true
  | _ => false

theorem isLate_of_answersFlag {n : BitVec 4} {i : Instr} (hn : n ∈ lateFlags) (hi : answersFlag n i = true) :
    isLate i = true := by
  fin_cases hn <;> cases i with
    | mcslotTimer | pingTimer | rxwOpen | ackTimeout | dcSchedule => rfl
    | _ => exact nomatch hi

/-- A command that answers one of these flags. -/
theorem staysBusy_exec {i : Instr} {s : State} (hi : isLate i = true) (hbusy : s.r.rxSlot ≠ .none) :
    StaysBusy s (exec i s) := by
  cases i with
  | mcslotTimer now => exact staysBusy_mcslotTimer now hbusy
  | pingTimer now => exact staysBusy_pingTimer now hbusy
  | rxwOpen win2 => exact staysBusy_rxwOpen win2 hbusy
  | ackTimeout => exact staysBusy_ackTimeout hbusy
  | dcSchedule now allow => exact staysBusy_dcSchedule now allow hbusy
  | _ => exact nomatch hi

/-- Commands that answer these flags, one after another. -/
theorem staysBusy_runAll {is : List Instr} (his : ∀ i ∈ is, isLate i = true) :
    ∀ {s : State}, s.r.rxSlot ≠ .none → StaysBusy s (runAll is s) := by
  induction is with
  | nil =>
    intro s hbusy
    exact .of_kept (calls := []) hbusy rfl (List.append_nil _).symm (by simp)
  | cons i is ih =>
    intro s hbusy
    obtain ⟨t, ht, htbusy, calls, htrace, hcalls⟩ := staysBusy_exec (his i (by simp)) hbusy
    obtain ⟨u, hu, hubusy, later, hlater, hlcalls⟩ := ih (fun j hj => his j (by simp [hj])) htbusy
    rw [runAll_cons, ht]
    refine ⟨u, hu, hubusy, calls ++ later, by rw [hlater, htrace, List.append_assoc], fun arg phy hmem => ?_⟩
    exact (List.mem_append.1 hmem).elim (hcalls arg phy) (hlcalls arg phy)

theorem eq_mcslotTimer {i : Instr} (h : answersFlag 9 i = true) : ∃ now, i = .mcslotTimer now := by
  cases i with
  | mcslotTimer now => exact ⟨now, rfl⟩
  | _ => exact nomatch h

/-- With none of the earlier flags set, only these are handled, the multicast timer's first. -/
theorem flagsInOrder_late {v : BitVec 16} (h : v &&& 0x01FF = 0) :
    flagsInOrder v = lateFlags.filter fun n => v.getLsbD n.toNat := by
  have hclear : ∀ n ∈ ([0, 1, 2, 3, 4, 8] : List (BitVec 4)), v.getLsbD n.toNat = false := by
    intro n hn
    have hmask : ∀ n ∈ ([0, 1, 2, 3, 4, 8] : List (BitVec 4)), (0x01FF#16).getLsbD n.toNat = true := by decide
    simpa [hmask n hn] using congrArg (fun x : BitVec 16 => x.getLsbD n.toNat) h
  have hsplit : drainOrder = [0, 1, 2, 3, 4, 8] ++ lateFlags := rfl
  rw [flagsInOrder, hsplit, List.filter_append, List.filter_eq_nil_iff.2 fun n hn => by simp [hclear n hn],
    List.nil_append]

/-- The work of such a batch begins with the commands for the multicast timer. -/
theorem work_of_mcslotFirst {v : BitVec 16} {work : List (BitVec 4 × List Instr)} (hbatch : HandlesBatch v work)
    (h : v &&& 0x01FF = 0) {cmds : List Instr} (hmem : (9, cmds) ∈ work) (hcmds : cmds ≠ []) :
    ∃ now is, work.flatMap Prod.snd = .mcslotTimer now :: is
      ∧ ∀ i ∈ is, isLate i = true := by
  obtain ⟨hflags, hanswers⟩ := hbatch
  rw [flagsInOrder_late h] at hflags
  have hlate : ∀ g ∈ work, g.1 ∈ lateFlags := fun g hg =>
    List.mem_of_mem_filter (hflags ▸ List.mem_map_of_mem hg)
  have hset : v.getLsbD 9 = true := by
    have : (9 : BitVec 4) ∈ lateFlags.filter fun n => v.getLsbD n.toNat := hflags ▸ List.mem_map_of_mem hmem
    exact (List.mem_filter.1 this).2
  rw [show lateFlags = 9 :: [10, 11, 12, 13, 14] from rfl, List.filter_cons_of_pos (by exact hset),
    List.map_eq_cons_iff] at hflags
  obtain ⟨g, rest, rfl, hg, hrest⟩ := hflags
  obtain rfl : (9, cmds) = g := by
    refine (List.mem_cons.1 hmem).resolve_right fun hin => ?_
    have : (9 : BitVec 4) ∈ [10, 11, 12, 13, 14].filter fun n : BitVec 4 => v.getLsbD n.toNat :=
      hrest ▸ List.mem_map_of_mem hin
    exact absurd (List.mem_of_mem_filter this) (by decide)
  obtain ⟨i, is, rfl⟩ := List.exists_cons_of_ne_nil hcmds
  obtain ⟨now, rfl⟩ := eq_mcslotTimer (hanswers _ hmem i (by simp))
  refine ⟨now, is ++ rest.flatMap Prod.snd, rfl, fun j hj => ?_⟩
  rcases List.mem_append.1 hj with hj | hj
  · exact isLate_of_answersFlag (hlate _ hmem) (hanswers _ hmem j (by simp [hj]))
  · obtain ⟨g, hg, hjg⟩ := List.mem_flatMap.1 hj
    exact isLate_of_answersFlag (hlate g (by simp [hg])) (hanswers g (by simp [hg]) j hjg)

/-- Settles O54: the slot timers by their rules; in a batch the multicast slot opens first, and while the radio receives
no unicast slot opens (`staysBusy_runAll`). -/
theorem multicastPriority : Obligations.MulticastPriority := by
  intro now s t
  refine ⟨fun ht hslot => ?stays, fun ht harmed hdue => ?sameInstant, fun ht hok hslot => ?openSlot, ?batch⟩
  case stays =>
    rw [pingTimer_r_of_yields ht (.inl (by simp [hslot])), hslot]
  case sameInstant =>
    rw [pingTimer_r_of_yields ht (.inr ⟨harmed, hdue⟩)]
  case openSlot =>
    by_cases h : McReady s
    · obtain ⟨u, hu, hopened, -⟩ := mcslotTimer_opened now h (not_mcYields hslot.symm)
      cases hu.symm.trans ht
      exact hopened
    · rw [mcslotTimer_stale now h] at ht
      cases ht
      exact absurd hok (by simp [failedWith])
  case batch =>
    rintro v work hbatch hv ⟨cmds, hmem, hcmds⟩ hrun hidle hclass hvalid hleft hslot
    obtain ⟨now', is, hwork, his⟩ := work_of_mcslotFirst hbatch hv hmem hcmds
    obtain ⟨u, hu, hopened, htrace⟩ := mcslotTimer_opened now' ⟨hrun, hidle, hclass, hvalid, hleft⟩ (not_mcYields hslot)
    obtain ⟨w, hw, -, calls, hlater, hcalls⟩ := staysBusy_runAll his (s := u) (by simp [hopened])
    rw [hwork, runAll_cons, hu]
    refine ⟨w, _, hw, by rw [hlater, htrace, List.append_assoc],
      ⟨_, _, List.mem_append_left _ (.tail _ (.tail _ (.head _)))⟩, fun arg phy hmem => ?_⟩
    rcases List.mem_append.1 hmem with hin | hin
    · simp at hin
    · exact hcalls arg phy hin

end Sys2Proof.Proofs.SlotTimers
end

section
/-! Two laws over the counters and the duty cycle: the counter that `FCNT.RECONSTRUCT` accepts is the only one that fits
(42_counters.md R163, R164), and `SEND_NOW` is answered only when the time-off has gone by
(43_dutycycle_adr.md R178). -/

namespace Sys2Proof.Proofs.Timing

open Sys2Proof Sys2Proof.Machine
open Sys2Proof.Proofs.Counters Sys2Proof.Proofs.DutyCycleAdr

/-! ### The accepted candidate -/

theorem le32_injective {v w : Word} (h : le32 v = le32 w) : v = w := by
  have hnum := congrArg unLe h
  simp only [le32, unLe_leBytes] at hnum
  bv_omega

/-- Above the last counter, with the wire value as its low half. -/
theorem candidate_spec (last : Word) (wire : Half) :
    last.toNat < candidate last wire ∧ candidate last wire % 65536 = wire.toNat := by
  have hwire := wire.isLt
  rw [candidate_eq]
  split <;> omega

/-- Two numbers above the last counter and within the gap, with one low half, are one number. -/
theorem eq_of_within_gap {last gap a b : Nat} (hgap : gap < 65536) (ha : last < a) (hb : last < b)
    (hlow : a % 65536 = b % 65536) (hagap : a - last ≤ gap) (hbgap : b - last ≤ gap) : a = b := by
  omega

/-- A reconstruction that answers a counter has accepted its candidate. -/
theorem fcntReconstruct_accepted {k : BitVec 3} {wire : Half} {s t : State} {c : Word} {roll : Byte}
    (hv : streamValid s.r.fcntValid k = true) (ht : exec (.fcntReconstruct k wire) s = .next t)
    (hans : t.answer = 0x00 :: (le32 c ++ [roll])) :
    c.toNat = candidate (lastFcnt s.r k) wire
      ∧ candidate (lastFcnt s.r k) wire - (lastFcnt s.r k).toNat ≤ s.par.maxFcntGap := by
  have hfailed : ∀ st : Status, st ≠ .ok → (failedWith st s).answer ≠ 0x00 :: (le32 c ++ [roll]) := by
    intro st hst h
    have := (List.cons.inj h).1
    cases st with
    | ok => exact hst rfl
    | _ => exact absurd this (by decide)
  by_cases hknown : KnownStream s.mc k
  · rw [fcntReconstruct_next wire hknown hv] at ht
    split at ht
    · cases ht
      exact absurd hans (hfailed _ (by decide))
    · split at ht
      · cases ht
        exact absurd hans (hfailed _ (by decide))
      · next hspace =>
        split at ht
        · cases ht
          exact absurd hans (hfailed _ (by decide))
        · next hgap =>
          cases ht
          obtain ⟨hc, -⟩ := List.append_inj (List.cons.inj hans).2 (by simp)
          refine ⟨?_, by omega⟩
          rw [← le32_injective hc, BitVec.toNat_ofNat, Nat.mod_eq_of_lt (by omega)]
  · rw [fcntReconstruct_unknown wire hknown] at ht
    cases ht
    exact absurd hans (hfailed _ (by decide))

/-- Settles O39: the candidate's place by `candidate_spec`, its uniqueness by `eq_of_within_gap`. -/
theorem reconstructedCounterIsUnique : Obligations.ReconstructedCounterIsUnique := by
  intro k wire s t c roll hgap hv ht hans
  obtain ⟨hc, hwithin⟩ := fcntReconstruct_accepted hv ht hans
  obtain ⟨habove, hlow⟩ := candidate_spec (lastFcnt s.r k) wire
  rw [← hc] at habove hlow hwithin
  refine ⟨habove, hlow, hwithin, fun c' habove' hlow' hwithin' => ?_⟩
  exact eq_of_within_gap hgap habove' habove (hlow'.trans hlow.symm) hwithin' hwithin

/-! ### The duty cycle -/

theorem timeOff_eq (toa : Word) (n : Half) : timeOff toa n = toa.toNat * (n.toNat - 1) := by
  rw [timeOff, Nat.mul_sub_one]

/-- An accounted transmission leaves its time-off and its end in the registers. -/
theorem dcTxUpdate_ok {fin toa : Word} {ch : Byte} {s t : State} (ht : exec (.dcTxUpdate fin toa ch) s = .next t)
    (hok : t.status = .ok) :
    t.r.aggTimeOff.toNat = timeOff toa s.r.aggDcycle ∧ t.r.lastAggTx = fin ∧ t.r.aggTxValid = true := by
  rw [dcTxUpdate_eq] at ht
  split at ht
  · cases ht
    exact absurd hok (by simp [failedWith])
  · next hfits =>
    cases ht
    exact ⟨by rw [BitVec.toNat_ofNat, Nat.mod_eq_of_lt (by omega)], rfl, rfl⟩

/-- No wait is left only when the time-off has gone by. -/
theorem elapsed_of_aggWait_eq_zero {r : Regs} {now : Word} (hvalid : r.aggTxValid = true) (h : aggWait r now = 0) :
    r.aggTimeOff.toNat ≤ (now - r.lastAggTx).toNat := by
  by_contra hleft
  have hlt : (now - r.lastAggTx).toNat < r.aggTimeOff.toNat := Nat.lt_of_not_le hleft
  rw [aggWait_eq, if_pos ⟨hvalid, hlt⟩] at h
  have hnum := congrArg BitVec.toNat h
  rw [BitVec.toNat_ofNat, Nat.mod_eq_of_lt (Nat.lt_of_le_of_lt (Nat.sub_le _ _) r.aggTimeOff.isLt)] at hnum
  exact absurd hnum (Nat.sub_pos_of_lt hlt).ne'

theorem eq_zero_of_maxWord {a b : Word} (h : maxWord a b = 0) : a = 0 := by
  rw [maxWord] at h
  split at h <;> bv_omega

/-- `SEND_NOW` is answered only when no wait is left. -/
theorem dcSchedule_sendNow {now : Word} {allow : Bool} {u v : State} {ch' : Byte} {rest : List Byte}
    (hv : exec (.dcSchedule now allow) u = .next v) (hans : v.answer = 0x00 :: 0x00 :: ch' :: rest) :
    aggWait u.r now = 0 := by
  cases hask : (regionNextChannel now u.r.chDatarate u.r.joined (aggWait u.r now) u).1 with
  | none =>
    rw [dcSchedule_noChannel allow hask] at hv
    cases hv
    exact absurd (List.cons.inj hans).1 (by decide)
  | some answer =>
    obtain ⟨ch, w⟩ := answer
    rw [dcSchedule_channel allow hask] at hv
    split at hv
    · next hzero => exact eq_zero_of_maxWord hzero
    · split at hv
      · cases hv
        exact absurd (List.cons.inj (List.cons.inj hans).2).1 (by decide)
      · cases hv
        exact absurd (List.cons.inj hans).1 (by decide)

/-- Settles O41: the time-off left by the transmission is what `DC.SCHEDULE` waits for. -/
theorem dutyCycleLaw : Obligations.DutyCycleLaw := by
  intro s t u v fin toa now ch ch' allow rest _ ht hok hoff hlast hvalid hv hans
  obtain ⟨htoff, htlast, htvalid⟩ := dcTxUpdate_ok ht hok
  have helapsed := elapsed_of_aggWait_eq_zero (hvalid.trans htvalid) (dcSchedule_sendNow hv hans)
  rwa [hoff, htoff, hlast, htlast, timeOff_eq] at helapsed

end Sys2Proof.Proofs.Timing
end

section
/-! Reset, the information base, the class switches and the HOST's stores (46_system.md R250, R251, R253,
10_state.md R10, R32, 20_memory.md R44). -/

namespace Sys2Proof.Proofs.SystemState

open Sys2Proof Sys2Proof.Machine
open Sys2Proof.Proofs.FrameCodec (raise_eq_failedWith done_eq_answeredOk stores_write)

/-! ### `SYS.INIT` (R250) -/

/-- The calls of a reset. -/
def initCalls : List Call := [.regionInitDefaults, .regionDefaultDatarate, .regionDefaultTxPower, .radioSleep]

theorem sysInit_eq (s : State) :
    exec .sysInit s = .next (answeredOk [] { s.reinit with trace := s.trace ++ initCalls }) := by
  have htrace : (((s.trace ++ [Call.regionInitDefaults]) ++ [.regionDefaultDatarate]) ++ [.regionDefaultTxPower])
      ++ [.radioSleep] = s.trace ++ initCalls := by simp [initCalls]
  rw [← htrace]
  rfl

/-- Settles O7: `sysInit_eq`, read field by field; the buffers after it are empty. -/
theorem sysInitValues : Obligations.SysInitValues := by
  refine ⟨fun s t hpar ht => ?powerOn, fun s => sysInit_eq s, fun s t ht j => ?bytes⟩
  case powerOn =>
    rw [sysInit_eq] at ht
    cases ht
    obtain ⟨par⟩ := s
    obtain rfl : par = .default := hpar
    rfl
  case bytes =>
    have hmem : t.mem = .reset := by
      rcases ht with ht | rfl
      · rw [sysInit_eq] at ht
        cases ht
        rfl
      · rfl
    simp only [State.byteOf, hmem]
    exact ⟨rfl, rfl, rfl, rfl, rfl⟩

theorem entryOk_reset : entryOk .reset := ⟨fun _ => rfl, nofun⟩

theorem at4_mcReset : ∀ h : BitVec 2, at4 mcReset h = .reset := by decide

/-- Settles O8: nothing runs, nothing is armed, and every register is at its reset value. -/
theorem resetMeetsInvariants : Obligations.ResetMeetsInvariants := by
  refine ⟨⟨wf_reset _, ?_⟩, ?_, rfl, rfl, nofun, fun h => ?_, nofun, by decide, by decide⟩
  · decide
  · decide
  · rw [show State.reset.mc = mcReset from rfl, at4_mcReset]
    exact entryOk_reset

/-! ### `MIB.GET` (R251) -/

theorem exec_mibGet (id : Byte) (s : State) : exec (.mibGet id) s = execMibGet id s := rfl

theorem mibGet_some {id : Byte} {v : Word} {s : State} (h : readRegister s id.toNat = some v) :
    exec (.mibGet id) s = .next (answeredOk (le32 v) s) := by
  simp only [exec_mibGet, execMibGet, h, done_eq_answeredOk]

theorem mibGet_none {id : Byte} {s : State} (h : readRegister s id.toNat = none) :
    exec (.mibGet id) s = .next (failedWith .errParam s) := by
  simp only [exec_mibGet, execMibGet, h, raise_eq_failedWith]

/-- The identifiers of the table. -/
def registerIds : List Nat :=
  List.range' 0x00 6 ++ List.range' 0x10 9 ++ List.range' 0x20 9 ++ 
    [0x30, 0x31, 0x32, 0x38, 0x39, 0x3A, 0x40, 0x41, 0x42]
  ++ List.range' 0x70 14 ++ List.range' 0x80 8 ++ List.range' 0x90 8
  ++ List.range' 0xA0 9 ++ List.range' 0xB0 9 ++ List.range' 0xC0 9 ++ List.range' 0xD0 9

theorem registerValues_ids (s : State) : (registerValues s).map Prod.fst = registerIds := by
  simp [registerValues, registerIds, List.range']

theorem registerValues_length (s : State) : (registerValues s).length = 99 := by
  rw [← List.length_map (f := Prod.fst), registerValues_ids]
  rfl

theorem toNat_ofNat_of_register {s : State} {row : Nat × Word} (h : row ∈ registerValues s) :
    (BitVec.ofNat 8 row.1).toNat = row.1 := by
  have hid : row.1 ∈ registerIds := registerValues_ids s ▸ List.mem_map_of_mem h
  have hfits : ∀ id ∈ registerIds, (BitVec.ofNat 8 id).toNat = id := by decide
  exact hfits _ hid

/-- Each row of the table says what the block reads. -/
theorem readRegister_registerValues (s : State) : ∀ row ∈ registerValues s, readRegister s row.1 = some row.2 := by
  have hbit : ∀ b : Bool, (if b = true then (1 : Word) else 0) = zext (boolBit b) := by decide
  have hvariant : ∀ v : Variant, (if v = .v11 then (1 : Word) else 0) = zext (variantCode v) := by
    intro v
    cases v <;> rfl
  have hthree : (3 : Fin 4).val = 3 := rfl
  simp only [registerValues, hbit, hvariant, List.forall_mem_append, List.forall_mem_cons, List.not_mem_nil,
    false_implies, implies_true, and_true, Fin.val_zero, Fin.val_one, Fin.val_two, hthree, Fin.isValue, Nat.reduceMul,
    Nat.reduceAdd]
  and_intros <;> rfl

theorem mcRegister_none (e : McEntry) {k : Nat} (h : 9 ≤ k) : mcRegister e k = none := by
  unfold mcRegister
  split
  case h_10 => rfl
  all_goals omega

/-- The block reads no register but those of the table. -/
theorem readRegister_eq_none {s : State} {id : Nat} (h : id ∉ registerIds) : readRegister s id = none := by
  unfold readRegister
  split
  -- the arm of every other identifier
  case h_50 n =>
    simp only [registerIds, List.mem_append, List.mem_range'_1, not_or] at h
    rw [if_neg (by omega)]
    split
    · exact mcRegister_none _ (by omega)
    · rfl
  all_goals simp [registerIds, List.mem_range'_1] at h

/-- Settles O55: every row of the table by `readRegister_registerValues`, every other identifier by
`readRegister_eq_none`. -/
theorem mibGet : Obligations.MibGet := by
  intro s
  refine ⟨fun id v hrow => mibGet_some ?_, fun id hid => mibGet_none (readRegister_eq_none ?_),
    registerValues_length s, ?_, ?_, ?_⟩
  · rw [toNat_ofNat_of_register hrow]
    exact readRegister_registerValues s _ hrow
  · rwa [registerValues_ids] at hid
  · intro x
    cases x <;> decide
  · intro x
    cases x <;> decide
  · intro x
    cases x <;> decide

/-! ### `SYS.SET_CLASS` (R253) -/

theorem exec_sysSetClass (c : BitVec 2) (now : Word) (s : State) :
    exec (.sysSetClass c now) s = execSysSetClass c now s := rfl

theorem classOf_classCode (x : DeviceClass) : classOf (classCode x) = some x := by
  cases x <;> decide

/-- The switch from one class to another, as a function of the two. -/
def switchClass (now : Word) (source target : DeviceClass) (s : State) : Out :=
  match source, target with
  | .a, .a => done [] s
  | .b, .b => done [] s
  | .c, .c => done [] s
  | .b, .c => raise .errParam s
  | .c, .b => raise .errParam s
  | .a, .b =>
    if s.b.run = false ∨ s.b.lastRxValid = false ∨ s.p.assigned = false then raise .errParam s
    else done [] (classAToB now (closeExchange s))
  | .b, .a => done [] (haltTracker (closeExchange s))
  | .a, .c => if s.b.run then raise .errBusy s else done [] (classAToC (closeExchange s))
  | .c, .a => done [] (classCToA (closeExchange s))

theorem sysSetClass_eq (target : DeviceClass) (now : Word) (s : State) :
    exec (.sysSetClass (classCode target) now) s = switchClass now s.r.deviceClass target s := by
  simp only [exec_sysSetClass, execSysSetClass, classOf_classCode]
  generalize s.r.deviceClass = source
  cases source <;> cases target <;> rfl

theorem sysSetClass_same (now : Word) (s : State) :
    exec (.sysSetClass (classCode s.r.deviceClass) now) s = .next (answeredOk [] s) := by
  rw [sysSetClass_eq]
  cases s.r.deviceClass <;> exact done_eq_answeredOk [] s

theorem closeExchange_eq (s : State) :
    closeExchange s = { s with
      r := { s.r with ackRetryCnt := 0 }
      t := { s.t with rx1 := { s.t.rx1 with armed := false }, rx2 := { s.t.rx2 with armed := false },
                      ackTo := { s.t.ackTo with armed := false },
                      dcDelay := { s.t.dcDelay with armed := false } } } := by
  rw [closeExchange, DutyCycleAdr.disarmClassA_eq]

/-- Settles O57: the table of `switchClass`, entry by entry. -/
theorem setClass : Obligations.SetClass := by
  intro now s run q
  have hrun : ∀ target, run (classCode target) = switchClass now s.r.deviceClass target s := fun target =>
    sysSetClass_eq target now s
  have hq : closeExchange s = q := closeExchange_eq s
  refine ⟨rfl, sysSetClass_same now s, fun h => ?bc, fun h => ?cb, fun h hno => ?abRefused, fun h h1 h2 h3 => ?ab,
    fun h => ?ba, fun h hbusy => ?acRefused, fun h hfree => ?ac, fun h => ?ca⟩
  case bc => exact (hrun .c).trans (by rw [h, switchClass, raise_eq_failedWith])
  case cb => exact (hrun .b).trans (by rw [h, switchClass, raise_eq_failedWith])
  case abRefused => exact (hrun .b).trans (by rw [h, switchClass, if_pos hno, raise_eq_failedWith])
  case ab =>
    have hcond : ¬ (s.b.run = false ∨ s.b.lastRxValid = false ∨ s.p.assigned = false) := by simp [h1, h2, h3]
    refine (hrun .b).trans ?_
    rw [h, switchClass, if_neg hcond, done_eq_answeredOk, hq]
    rfl
  case ba =>
    intro listening
    refine (hrun .a).trans ?_
    have hleave : leaveClassB q.r = { q.r with deviceClass := .a } := if_pos h
    rw [h, switchClass, done_eq_answeredOk, hq]
    by_cases hlisten : listening
    · rw [ClassB.haltTracker_listening (s := q) hlisten, hleave, if_pos hlisten, if_pos hlisten]
      rfl
    · rw [ClassB.haltTracker_idle (s := q) hlisten, hleave, if_neg hlisten, if_neg hlisten, List.append_nil]
      rfl
  case acRefused => exact (hrun .c).trans (by rw [h, switchClass, if_pos hbusy, raise_eq_failedWith])
  case ac =>
    refine ⟨_, (hrun .c).trans (by rw [h, switchClass, if_neg (by simp [hfree]), done_eq_answeredOk, hq]), ?_⟩
    rw [classAToC, RxWindows.listen_state, log_trace, List.append_assoc]
    rfl
  case ca => exact (hrun .a).trans (by rw [h, switchClass, done_eq_answeredOk, hq]; rfl)

/-! ### The HOST's direct accesses (10_state.md R10, 20_memory.md R44) -/

theorem step_host {s : State} {a : HostAccess} {rest : List PortItem} (hpar : s.par.Ok)
    (hport : s.port = .host a :: rest) :
    step s = hostWrite a { s with port := rest } := by
  rw [step, if_neg (not_not.2 hpar)]
  simp only [hport]

theorem capacity_eq (par : Params) (b : Buf) :
    capacity par b = if b = .fopts then 15 else if b = .cflist then 16 else par.phyMax := by
  cases b <;> rfl

/-- A string written at an offset: its own bytes there, every other byte as before. -/
theorem byteOf_write (s : State) (b c : Buf) (off j : Nat) (bs : List Byte) :
    (s.write b off bs).byteOf c j =
      if c = b ∧ off ≤ j ∧ j < off + bs.length then bs[j - off]? else s.byteOf c j := by
  by_cases h : c = b ∧ off ≤ j ∧ j < off + bs.length
  · obtain ⟨rfl, hle, hlt⟩ := h
    rw [if_pos ⟨rfl, hle, hlt⟩]
    have hread := readCell_writeCells_same (unlisted c) (s.mem.buf c) off bs (j - off) (by omega)
    rw [Nat.add_sub_cancel' hle] at hread
    simpa [State.byteOf] using hread
  · rw [if_neg h]
    refine byteOf_write_other s b c off j bs ?_
    by_cases hc : c = b
    · have : ¬ (off ≤ j ∧ j < off + bs.length) := fun hin => h ⟨hc, hin⟩
      omega
    · exact .inl hc

theorem get_put (k : KeyStore) (slot : KeySlot) (v : Key) :
    (k.put slot v).get slot = if slot = .zeroKey then some 0 else some v := by
  by_cases h : slot = .zeroKey
  · subst h
    rfl
  · rw [if_neg h, get_put_same k v h]

/-- A store of the HOST to a buffer. -/
theorem step_hostBuffer {s : State} {rest : List PortItem} (hpar : s.par.Ok) {b : Buf} {off : Nat} {bytes : List Byte}
    (hport : s.port = .host (.buffer b off bytes) :: rest) :
    (capacity s.par b < off + bytes.length → step s = .fault .beyondCapacity)
    ∧ (off + bytes.length ≤ capacity s.par b → step s = .next (State.write { s with port := rest } b off bytes)) := by
  refine ⟨fun h => ?_, fun h => ?_⟩
  · exact (step_host hpar hport).trans (if_pos h)
  · exact (step_host hpar hport).trans (if_neg (Nat.not_lt.2 h))

/-- A frame the HOST puts into `RXBUF`. -/
theorem storeFrame_stores (bytes : List Byte) (s : State) :
    (s.par.phyMax < bytes.length → storeFrame bytes s = .fault .beyondCapacity)
    ∧ (bytes.length ≤ s.par.phyMax → ∃ t, storeFrame bytes s = .next t
        ∧ { t with mem := s.mem } = { s with rxLen := BitVec.ofNat 8 bytes.length } ∧ Stores s t (only .rx bytes)) :=
  ⟨fun h => if_pos h, fun h => ⟨_, if_neg (Nat.not_lt.2 h), rfl, stores_write s .rx bytes⟩⟩

/-- Settles O60: a direct access by `step_host`; a wire row by the bit places of its byte, or by `storeFrame_stores`. -/
theorem wireRowsAreHostStores : Obligations.WireRowsAreHostStores := by
  refine ⟨fun s rest hpar => ?direct, fun s => ?wire⟩
  case direct =>
    intro u sets
    refine ⟨fun _ => step_host hpar, fun _ => step_host hpar, fun _ => step_host hpar, fun _ => step_host hpar,
      fun _ => step_host hpar, fun _ => step_host hpar, fun _ => step_host hpar, fun _ => step_host hpar,
      fun _ => step_host hpar, fun _ => step_host hpar, fun _ => step_host hpar, fun _ => step_host hpar,
      fun _ => step_host hpar, fun _ => step_host hpar, fun _ => step_host hpar, fun _ => step_host hpar,
      fun _ => step_host hpar, fun _ => step_host hpar, fun _ => step_host hpar, fun _ => step_host hpar,
      fun b off bytes hport => ?buffer, fun slot k hport => ?key⟩
    case buffer =>
      intro cap
      have hcap : capacity s.par b = cap := capacity_eq s.par b
      obtain ⟨hbeyond, hwithin⟩ := step_hostBuffer hpar hport
      rw [hcap] at hbeyond hwithin
      exact ⟨hbeyond, fun h => ⟨_, hwithin h, rfl, fun c j => byteOf_write u b c off j bytes⟩⟩
    case key =>
      exact ⟨_, step_host hpar hport, rfl, get_put s.se slot k, fun other hother => get_put_other s.se k hother⟩
  case wire =>
    exact ⟨fun _ _ _ => rfl, fun _ => ⟨rfl, rfl, rfl, rfl, rfl, rfl, rfl, rfl⟩, fun _ _ _ => rfl, fun _ _ _ _ _ => rfl,
      fun f => storeFrame_stores f.bytes s, fun f => storeFrame_stores f.bytes s, fun f => storeFrame_stores f.bytes s,
      fun f => storeFrame_stores f.bytes s, fun f => storeFrame_stores f.bytes s⟩

end Sys2Proof.Proofs.SystemState
end

section
/-! What each instruction can write. The state is cut into aspects, `writes` lists those an instruction may change, and
`exec_same` says that it leaves the others. The laws over all instructions look at the few that write an aspect. -/

namespace Sys2Proof.Proofs.Footprint

open Sys2Proof Sys2Proof.Machine
open Sys2Proof.Proofs.Exceptions (MadeCalls)

/-! ### The aspects of the state -/

/-- The parts of the state the laws speak of. -/
inductive Aspect where
  /-- The parameters and the ports. -/
  | env
  /-- `R.EVT`. -/
  | flags
  /-- The five buffers. -/
  | memory
  /-- The acknowledgment retries. -/
  | ack
  /-- The duty-cycle registers. -/
  | duty
  /-- `R.FCNT_UP`. -/
  | uplink
  /-- The downlink counters and their valid bits. -/
  | streams
  /-- `R.RX_SLOT`. -/
  | slot
  /-- `R.DEVICE_CLASS`. -/
  | cls
  /-- `B.*` and the record of its states. -/
  | tracker
  /-- `P.*`, the multicast file and its owner. -/
  | slots
  /-- The three class B timers. -/
  | timers
  deriving DecidableEq

/-- The aspect is the same in both states. -/
def Aspect.same : Aspect → State → State → Prop
  | .env, s, t => (t.par, t.port) = (s.par, s.port)
  | .flags, s, t => t.evt = s.evt
  | .memory, s, t => t.mem = s.mem
  | .ack, s, t => (t.r.ackRetries, t.r.ackRetryCnt) = (s.r.ackRetries, s.r.ackRetryCnt)
  | .duty, s, t => (t.r.aggDcycle, t.r.aggTimeOff, t.r.lastAggTx, t.r.aggTxValid)
      = (s.r.aggDcycle, s.r.aggTimeOff, s.r.lastAggTx, s.r.aggTxValid)
  | .uplink, s, t => t.r.fcntUp = s.r.fcntUp
  | .streams, s, t => (t.r.nFcntDown, t.r.aFcntDown, t.r.mcFcntDown, t.r.fcntValid)
      = (s.r.nFcntDown, s.r.aFcntDown, s.r.mcFcntDown, s.r.fcntValid)
  | .slot, s, t => t.r.rxSlot = s.r.rxSlot
  | .cls, s, t => t.r.deviceClass = s.r.deviceClass
  | .tracker, s, t => (t.b, t.path) = (s.b, s.path)
  | .slots, s, t => (t.p, t.mc, t.r.mcslotOwner) = (s.p, s.mc, s.r.mcslotOwner)
  | .timers, s, t => (t.t.beacon, t.t.ping, t.t.mcslot) = (s.t.beacon, s.t.ping, s.t.mcslot)

/-- From `s` to `t` nothing but the aspects of `W` has changed. -/
structure Same (W : List Aspect) (s t : State) : Prop where
  /-- Every other aspect is the same. -/
  same : ∀ a, a ∉ W → a.same s t

namespace Same

variable {W : List Aspect} {s t u : State}

theorem refl (s : State) : Same W s s where
  same a _ := by cases a <;> rfl

theorem trans (h1 : Same W s t) (h2 : Same W t u) : Same W s u where
  same a ha := by
    have h1 := h1.same a ha
    have h2 := h2.same a ha
    cases a <;> exact h2.trans h1

theorem mono {W' : List Aspect} (h : Same W s t) (hsub : ∀ a ∈ W, a ∈ W' := by decide) : Same W' s t :=
  ⟨fun a ha => h.same a fun hin => ha (hsub a hin)⟩

theorem reply (st : Status) (res : List Byte) (s : State) : Same W s (s.reply st res) where
  same a _ := by cases a <;> rfl

theorem log (s : State) (c : Call) : Same W s (s.log c) where
  same a _ := by cases a <;> rfl

theorem of_seOnly (h : SeOnly s t) : Same W s t where
  same a _ := by
    unfold SeOnly at h
    rw [← h]
    cases a <;> rfl

theorem of_callsOnly (h : CallsOnly s t) : Same W s t := of_seOnly h.seOnly

theorem setSlot (s : State) (x : RxSlot) : Same [.slot] s (s.setSlot x) where
  same a ha := by
    cases a with
    | slot => exact absurd (by decide) ha
    | _ => rfl

theorem enter (s : State) (x : BeaconState) : Same [.tracker] s (s.enter x) where
  same a ha := by
    cases a with
    | tracker => exact absurd (by decide) ha
    | _ => rfl

theorem write (s : State) (b : Buf) (off : Nat) (bs : List Byte) : Same [.memory] s (s.write b off bs) where
  same a ha := by
    cases a with
    | memory => exact absurd (by decide) ha
    | _ => rfl

theorem putTx (s : State) (msg : List Byte) : Same [.memory] s (s.putTx msg) where
  same a ha := by
    cases a with
    | memory => exact absurd (by decide) ha
    | _ => rfl

/-- The descriptor is no aspect of its own. -/
theorem setFd (s : State) (d : FrameDesc) : Same W s { s with fd := d } where
  same a _ := by cases a <;> rfl

/-- Nor is the length of the received frame. -/
theorem setRxLen (s : State) (n : Byte) : Same W s { s with rxLen := n } where
  same a _ := by cases a <;> rfl

theorem setDataFrame (s : State) (f : DataFrame) : Same [.memory] s (s.setDataFrame f) :=
  ((write s .fopts 0 f.fopts).trans (write _ .pld 0 f.payload)).trans (setFd ..)

theorem setJoinAccept (s : State) (f : JoinAccept) : Same [.memory] s (s.setJoinAccept f) :=
  (write s .cflist 0 (f.cflist.getD [])).trans (setFd ..)

theorem armPing (now : Word) (s : State) : Same [.slots, .timers] s (armPing now s) where
  same a ha := by
    rw [armPing_frame]
    cases a with
    | slots | timers => exact absurd (by decide) ha
    | _ => rfl

theorem armMc (now : Word) (s : State) : Same [.slots, .timers] s (armMc now s) where
  same a ha := by
    rw [armMc_frame]
    cases a with
    | slots | timers => exact absurd (by decide) ha
    | _ => rfl

theorem openBeacon (limit : Word) (s : State) : Same [.slot] s (openBeacon limit s) where
  same a ha := by
    rw [ClassB.openBeacon_state]
    cases a with
    | slot => exact absurd (by decide) ha
    | _ => rfl

theorem openSlot (slot : RxSlot) (arg : Byte) (mcPhy : Option (Word × Byte)) (s : State) :
    Same [.slot] s (openSlot slot arg mcPhy s) where
  same a ha := by
    rw [ClassB.openSlot_state]
    cases a with
    | slot => exact absurd (by decide) ha
    | _ => rfl

theorem restOrListen (s : State) : Same [.slot] s (restOrListen s) where
  same a ha := by
    rw [RxWindows.restOrListen_state]
    cases a with
    | slot => exact absurd (by decide) ha
    | _ => rfl

theorem closeExchange (s : State) : Same [.ack] s (closeExchange s) where
  same a ha := by
    cases a with
    | ack => exact absurd (by decide) ha
    | _ => rfl

theorem leave (s : State) : Same [.cls] s { s with r := leaveClassB s.r } where
  same a ha := by
    rw [ClassB.leaveClassB_eq]
    cases a with
    | cls => exact absurd (by decide) ha
    | _ => rfl

end Same

/-! ### What holds of the state an instruction leaves -/

/-- If there is a next state, `Q` holds of it. -/
def Post (Q : State → Prop) (o : Out) : Prop := ∀ t, o = .next t → Q t

namespace Post

variable {Q : State → Prop}

theorem next {t : State} (h : Q t) : Post Q (.next t) := by
  rintro _ ⟨⟩
  exact h

theorem raise {s : State} {st : Status} (h : Q (s.reply st [])) : Post Q (raise st s) := next h

theorem done {s : State} {res : List Byte} (h : Q (s.reply .ok res)) : Post Q (done res s) := next h

theorem fault {f : Fault} : Post Q (.fault f) := fun _ h => nomatch h

theorem ite {p : Prop} {_ : Decidable p} {o o' : Out} (h : p → Post Q o) (h' : ¬ p → Post Q o') :
    Post Q (if p then o else o') := by
  split
  · next hp => exact h hp
  · next hp => exact h' hp

theorem orFault {α : Type} {a : Option α} {k : α → Out} (hk : ∀ x, a = some x → Post Q (k x)) :
    Post Q (Machine.orFault a k) := by
  obtain ⟨_, h⟩ | ⟨x, hx, h⟩ := orFault_cases a k
  · exact h ▸ fault
  · exact h ▸ hk x hx

theorem orSeFailed {α : Type} {r : Option α × State} {k : α → State → Out} (hfail : Q (r.2.reply .errSeFailed []))
    (hk : ∀ x, r.1 = some x → Post Q (k x r.2)) : Post Q (Machine.orSeFailed r k) := by
  obtain ⟨_, h⟩ | ⟨x, hx, h⟩ := orSeFailed_cases r k
  · exact h ▸ raise hfail
  · exact h ▸ hk x hx

theorem withDataFrame {s : State} {k : List Byte → DataFrame → Out} (hfail : Q (s.reply .errParse []))
    (hk : ∀ b, s.frame = some b → 12 + foptsLen (byteAt b 5) ≤ s.rxLen.toNat → s.rxLen.toNat ≤ s.par.phyMax →
      Post Q (k b (.ofBytes b))) : Post Q (Machine.withDataFrame s k) := by
  obtain h | h | ⟨b, hb, hfit, hcap, h⟩ := withDataFrame_cases s k
  · exact h ▸ raise hfail
  · exact h ▸ fault
  · exact h ▸ hk b hb hfit hcap

end Post

/-! ### The footprint of each instruction -/

/-- The aspects an instruction may change. -/
def writes : Instr → List Aspect
  | .sysInit => [.flags, .memory, .ack, .duty, .uplink, .streams, .slot, .cls, .tracker, .slots, .timers]
  | .mibSet .. => [.duty, .uplink, .streams]
  | .sysSetClass .. => [.ack, .slot, .cls, .tracker, .slots, .timers]
  | .evtDrain => [.flags]
  | .mcAdd .. => [.streams, .slots, .timers]
  | .mcRemove .. => [.streams, .slots, .timers]
  | .serJoinreq .. => [.memory]
  | .serRejoin .. => [.memory]
  | .serJoinacc .. => [.memory]
  | .serData .. => [.memory]
  | .parseJoinacc => [.memory]
  | .parseData => [.memory]
  | .framePlaceCmds .. => [.memory]
  | .secUplink .. => [.memory, .uplink]
  | .secDownlink .. => [.memory, .streams]
  | .secJoinreq .. => [.memory]
  | .secRejoin .. => [.memory]
  | .secJoinacc .. => [.memory, .uplink, .streams]
  | .fcntReset .. => [.uplink, .streams]
  | .dcTxUpdate .. => [.duty]
  | .ackStart .. => [.ack]
  | .ackTimeout => [.ack]
  | .ackReceived => [.ack]
  | .rxwTxDone .. => [.slot]
  | .rxwOpen .. => [.slot]
  | .rxwRxDone .. => [.slot]
  | .bcnAcquire .. => [.slot, .tracker, .slots]
  | .bcnRxBeacon .. => [.slot, .tracker, .slots, .timers]
  | .bcnRxTimeout .. => [.slot, .cls, .tracker, .slots, .timers]
  | .bcnTimer .. => [.slot, .tracker, .timers]
  | .bcnHalt => [.slot, .cls, .tracker, .timers]
  | .pingSetInfo .. => [.slots, .timers]
  | .pingTimer .. => [.slot, .slots, .timers]
  | .mcslotTimer .. => [.slot, .slots, .timers]
  | .slotRxDone .. => [.slot]
  | .evtPost .. => [.flags, .timers]
  | .frameJoinRequest .. => [.memory]
  | .frameRejoin02 .. => [.memory]
  | .frameRejoin1 .. => [.memory]
  | .frameJoinAccept .. => [.memory]
  | .frameData .. => [.memory]
  | _ => []

/-- The outcome leaves every aspect but those of `W`. -/
abbrev Keeps (W : List Aspect) (s : State) (o : Out) : Prop := Post (Same W s) o

namespace Keeps

variable {W : List Aspect} {s : State} {o : Out}

theorem raise {st : Status} : Keeps W s (raise st s) := Post.raise (Same.reply st [] s)

theorem done {u : State} {res : List Byte} (h : Same W s u) : Keeps W s (done res u) :=
  Post.done (h.trans (Same.reply .ok res u))

theorem ite {p : Prop} {_ : Decidable p} {o' : Out} (h : Keeps W s o) (h' : Keeps W s o') :
    Keeps W s (if p then o else o') := Post.ite (fun _ => h) fun _ => h'

theorem orFault {α : Type} {a : Option α} {k : α → Out} (hk : ∀ x, Keeps W s (k x)) :
    Keeps W s (Machine.orFault a k) := Post.orFault fun x _ => hk x

theorem after {s' : State} (h : Same W s s') (ho : Keeps W s' o) : Keeps W s o := fun t ht => h.trans (ho t ht)

theorem orSeFailed {α : Type} {r : Option α × State} {k : α → State → Out} (hr : SeOnly s r.2)
    (hk : ∀ x s', Keeps W s' (k x s')) : Keeps W s (Machine.orSeFailed r k) :=
  after (Same.of_seOnly hr) (Post.orSeFailed (Same.reply _ _ _) fun x _ => hk x r.2)

theorem withDataFrame {k : List Byte → DataFrame → Out} (hk : ∀ b f, Keeps W s (k b f)) :
    Keeps W s (Machine.withDataFrame s k) := Post.withDataFrame (Same.reply _ _ _) fun b _ _ _ => hk b _

/-! ### The system commands -/

theorem sysInit (s : State) : Keeps (writes .sysInit) s (exec .sysInit s) := by
  rw [SystemState.sysInit_eq]
  refine Post.next ⟨fun a ha => ?_⟩
  cases a with
  | env => rfl
  | _ => exact absurd (by decide) ha

theorem mibGet (id : Byte) (s : State) : Keeps W s (execMibGet id s) := by
  unfold execMibGet
  split
  · exact raise
  · exact done (Same.refl s)

/-- The registers that are not settable. -/
def unsettable (r : Regs) : BitVec 4 × BitVec 4 × Word × Word × Bool × DeviceClass × RxSlot × BitVec 2 :=
  (r.ackRetries, r.ackRetryCnt, r.aggTimeOff, r.lastAggTx, r.aggTxValid, r.deviceClass, r.rxSlot, r.mcslotOwner)

/-- What `MIB.SET` writes is a row of the table whose value is legal. -/
theorem mem_settable_of_writeRegister {r r' : Regs} {id : Nat} {v : Word} (h : writeRegister r id v = some r') :
    (id, true, r') ∈ settableRegisters r v := by
  have hid : id ∈ (settableRegisters r v).map Prod.fst := by
    by_contra hno
    rw [SystemCommands.writeRegister_eq_none hno] at h
    cases h
  obtain ⟨⟨i, legal, r''⟩, hrow, rfl⟩ := List.mem_map.1 hid
  rw [SystemCommands.writeRegister_settable r v _ hrow, SystemCommands.written] at h
  split at h
  · next hlegal =>
    cases h
    rwa [show legal = true from hlegal] at hrow
  · cases h

theorem unsettable_settable (r : Regs) (v : Word) :
    ∀ row ∈ settableRegisters r v, unsettable row.2.2 = unsettable r := by
  simp only [settableRegisters, List.forall_mem_append, List.forall_mem_cons, List.not_mem_nil, false_implies,
    implies_true, and_true]
  and_intros <;> rfl

theorem same_writeRegister {s : State} {id : Nat} {v : Word} {r : Regs} (h : writeRegister s.r id v = some r) :
    Same [.duty, .uplink, .streams] s { s with r := r } where
  same a ha := by
    have hkept := unsettable_settable s.r v _ (mem_settable_of_writeRegister h)
    simp only [unsettable, Prod.mk.injEq] at hkept
    obtain ⟨hret, hcnt, -, -, -, hcls, hslot, howner⟩ := hkept
    cases a with
    | duty | uplink | streams => exact absurd (by decide) ha
    | ack => exact Prod.ext hret hcnt
    | cls => exact hcls
    | slot => exact hslot
    | slots => exact Prod.ext rfl (Prod.ext rfl howner)
    | _ => rfl

theorem mibSet (id : Byte) (v : Word) (s : State) : Keeps [.duty, .uplink, .streams] s (exec (.mibSet id v) s) := by
  cases hr : writeRegister s.r id.toNat v with
  | none =>
    rw [SystemCommands.mibSet_refused hr]
    exact raise
  | some r =>
    have hsame := same_writeRegister hr
    cases hkind : validatedKind id.toNat with
    | none =>
      rw [SystemCommands.mibSet_unasked hr hkind]
      exact done hsame
    | some kind =>
      rw [SystemCommands.mibSet_asked hr hkind]
      refine Post.next (Same.trans ?_ (Same.of_callsOnly rfl))
      split
      · exact hsame.trans (Same.reply .ok [] _)
      · exact Same.reply .errParam [] s

theorem same_haltTracker (s : State) : Same [.slot, .cls, .tracker, .timers] s (haltTracker s) where
  same a ha := by
    by_cases hlisten : ClassB.ListensClassB s.r
    · rw [ClassB.haltTracker_listening hlisten, ClassB.leaveClassB_eq]
      cases a with
      | slot | cls | tracker | timers => exact absurd (by decide) ha
      | _ => rfl
    · rw [ClassB.haltTracker_idle hlisten, ClassB.leaveClassB_eq]
      cases a with
      | slot | cls | tracker | timers => exact absurd (by decide) ha
      | _ => rfl

theorem same_setClass (s : State) (x : DeviceClass) : Same [.cls] s { s with r := { s.r with deviceClass := x } } where
  same a ha := by
    cases a with
    | cls => exact absurd (by decide) ha
    | _ => rfl

theorem same_classAToB (now : Word) (s : State) : Same [.cls, .slots, .timers] s (classAToB now s) := by
  unfold classAToB
  dsimp only
  split
  · exact (same_setClass s .b).mono.trans ((Same.armPing now _).trans (Same.armMc now _)).mono
  · exact (same_setClass s .b).mono

theorem same_classAToC (s : State) : Same [.cls, .slot] s (classAToC s) :=
  have hregs : Same [.cls, .slot] s { s with r := { s.r with deviceClass := .c, rxSlot := .classC } } :=
    (same_setClass s .c).mono.trans (Same.setSlot _ .classC).mono
  hregs.trans ((Same.log _ _).trans (Same.of_callsOnly (listen_frame ..)))

theorem same_classCToA (s : State) : Same [.cls, .slot] s (classCToA s) :=
  have hregs : Same [.cls, .slot] s { s with r := { s.r with deviceClass := .a, rxSlot := .none } } :=
    (same_setClass s .a).mono.trans (Same.setSlot _ .none).mono
  hregs.trans (Same.log _ _)

theorem sysSetClass (cls : BitVec 2) (now : Word) (s : State) :
    Keeps [.ack, .slot, .cls, .tracker, .slots, .timers] s (execSysSetClass cls now s) := by
  have hclose := Same.closeExchange s
  unfold execSysSetClass
  split
  · exact raise
  · next target _ =>
    cases s.r.deviceClass <;> cases target
    case a.b => exact ite raise (done (hclose.mono.trans (same_classAToB now _).mono))
    case a.c => exact ite raise (done (hclose.mono.trans (same_classAToC _).mono))
    case b.a => exact done (hclose.mono.trans (same_haltTracker _).mono)
    case c.a => exact done (hclose.mono.trans (same_classCToA _).mono)
    case b.c | c.b => exact raise
    case a.a | b.b | c.c => exact done (Same.refl s)

theorem same_putEntry (h : BitVec 2) (e : McEntry) (s : State) :
    Same [.streams, .slots] s (SystemCommands.putEntry h e s) where
  same a ha := by
    cases a with
    | streams | slots => exact absurd (by decide) ha
    | _ => rfl

theorem mcAdd (h : BitVec 2) (addr freq : Word) (dr : Byte) (per : BitVec 3) (now : Word) (s : State) :
    Keeps [.streams, .slots, .timers] s (exec (.mcAdd h addr freq dr per now) s) := by
  cases hvalid : (at4 s.mc h).valid with
  | true =>
    rw [SystemCommands.mcAdd_used addr freq dr per now hvalid]
    exact raise
  | false =>
    rw [SystemCommands.mcAdd_free addr freq dr per now hvalid]
    refine done ?_
    split
    · split
      · exact (same_putEntry ..).mono.trans (Same.armMc now _).mono
      · exact (same_putEntry ..).mono
    · exact (same_putEntry ..).mono

theorem mcRemove (h : BitVec 2) (now : Word) (s : State) :
    Keeps [.streams, .slots, .timers] s (exec (.mcRemove h now) s) := by
  cases hvalid : (at4 s.mc h).valid with
  | false =>
    rw [SystemCommands.mcRemove_free now hvalid]
    exact raise
  | true =>
    rw [SystemCommands.mcRemove_used now hvalid]
    refine done ?_
    split
    · exact (same_putEntry ..).mono.trans (Same.armMc now _).mono
    · exact (same_putEntry ..).mono

theorem same_post (s : State) (x : TimerName) (evt : BitVec 16) :
    Same [.flags, .timers] s { s with t := s.t.disarm x, evt := evt } where
  same a ha := by
    cases a with
    | flags | timers => exact absurd (by decide) ha
    | _ => rfl

theorem same_setEvt (s : State) (evt : BitVec 16) : Same [.flags] s { s with evt := evt } where
  same a ha := by
    cases a with
    | flags => exact absurd (by decide) ha
    | _ => rfl

theorem evtDrain (s : State) : Keeps [.flags] s (execEvtDrain s) := done (same_setEvt s 0)

theorem evtPost (bit : BitVec 4) (clock : Word) (s : State) :
    Keeps [.flags, .timers] s (execEvtPost bit clock s) := by
  unfold execEvtPost
  refine ite (Post.next (same_setEvt s _).mono) ?_
  split
  · exact Post.next (Same.refl s)
  · exact ite (Post.next (same_post s _ _)) (Post.next (Same.refl s))

/-! ### The frame codec -/

theorem serialize (cap : Byte) (msg : List Byte) (s : State) : Keeps [.memory] s (Machine.serialize cap msg s) :=
  ite raise (done (Same.putTx s msg))

theorem serRejoin (cap : Byte) (s : State) : Keeps [.memory] s (execSerRejoin cap s) :=
  ite raise (ite (serialize _ _ _) (ite (serialize _ _ _) raise))

theorem serJoinacc (cap : Byte) (s : State) : Keeps [.memory] s (execSerJoinacc cap s) :=
  ite raise (ite raise (ite (serialize _ _ _) (serialize _ _ _)))

theorem serData (cap : Byte) (s : State) : Keeps [.memory] s (execSerData cap s) :=
  ite raise (ite raise (ite raise (orFault fun _ => serialize _ _ _)))

theorem parseRejoin (s : State) : Keeps W s (execParseRejoin s) :=
  ite raise (orFault fun _ => ite (orFault fun _ => done (Same.setFd ..))
    (ite (orFault fun _ => done (Same.setFd ..)) raise))

theorem frameMatchAddr (s : State) : Keeps W s (execFrameMatchAddr s) := by
  unfold execFrameMatchAddr
  split
  · exact ite raise (done (Same.refl s))
  · exact ite (done (Same.refl s)) raise

theorem framePlaceCmds (cmds : List Byte) (maxPld : Byte) (s : State) :
    Keeps [.memory] s (execFramePlaceCmds cmds maxPld s) :=
  ite (done (Same.setFd ..)) (ite (done ((Same.write s .fopts 0 cmds).trans (Same.setFd ..)))
    (ite raise (Post.next (((Same.write s .pld 0 cmds).trans (Same.setFd ..)).trans (Same.reply ..)))))

theorem storeFrame (bytes : List Byte) (s : State) : Keeps [.memory] s (Machine.storeFrame bytes s) :=
  ite Post.fault (Post.next ((Same.write s .rx 0 bytes).trans (Same.setRxLen ..)))

/-! ### The security engine -/

theorem same_commitUplink (counter : Word) (msg : List Byte) (mic : Word) (s : State) :
    Same [.memory, .uplink] s (commitUplink counter msg mic s) where
  same a ha := by
    cases a with
    | memory | uplink => exact absurd (by decide) ha
    | _ => rfl

theorem secUplink (counter : Word) (dr ch cap : Byte) (s : State) :
    Keeps [.memory, .uplink] s (execSecUplink counter dr ch cap s) :=
  ite raise (ite raise (ite raise (ite raise (ite raise (orFault fun _ =>
    orSeFailed (payloadCrypt_frame ..).seOnly fun _ _ => orSeFailed (foptsMaybeCrypt_frame ..).seOnly fun _ _ =>
    orSeFailed (uplinkMic_frame ..).seOnly fun _ s => done (same_commitUplink _ _ _ s))))))

theorem same_commitDownlink (k : BitVec 3) (cand : Word) (f : DataFrame) (fo pt : List Byte) (s : State) :
    Same [.memory, .streams] s (commitDownlink k cand f fo pt s) where
  same a ha := by
    unfold commitDownlink setLastFcnt
    dsimp only
    cases a with
    | memory | streams => exact absurd (by decide) ha
    | env | flags | tracker | timers => rfl
    | ack | duty | uplink | slot | cls | slots =>
      split
      · rfl
      · split <;> rfl

theorem secDownlink (addrKind : BitVec 3) (address : Word) (counterKind : BitVec 3) (cand : Word) (s : State) :
    Keeps [.memory, .streams] s (execSecDownlink addrKind address counterKind cand s) :=
  ite raise (ite raise (withDataFrame fun _ _ =>
    ite raise (ite raise (ite raise (ite raise (orSeFailed (downlinkMic_frame ..).seOnly fun _ _ => ite raise
      (orSeFailed (payloadCrypt_frame ..).seOnly fun _ _ => orSeFailed (foptsMaybeCrypt_frame ..).seOnly fun _ s =>
        done (same_commitDownlink _ _ _ _ _ s))))))))

theorem same_commitRequest (msg : List Byte) (mic : Word) (s : State) :
    Same [.memory] s (commitRequest msg mic s) := (Same.putTx s _).trans (Same.setFd ..)

theorem secJoinreq (cap : Byte) (s : State) : Keeps [.memory] s (execSecJoinreq cap s) :=
  ite raise (ite raise (orSeFailed (seCmac_frame ..).seOnly fun _ s => done (same_commitRequest _ _ s)))

theorem secRejoin (cap : Byte) (s : State) : Keeps [.memory] s (execSecRejoin cap s) :=
  ite raise (ite raise (ite
    (ite raise (orSeFailed (seCmac_frame ..).seOnly fun _ s => done (same_commitRequest _ _ s)))
    (ite raise (ite raise (orSeFailed (seCmac_frame ..).seOnly fun _ s => done (same_commitRequest _ _ s))))))

theorem decryptBlocks {k : List Byte → State → Out} (hk : ∀ pl s, Keeps W s (k pl s)) (slot : KeySlot) (n i : Nat)
    (pl : List Byte) (s : State) : Keeps W s (Machine.decryptBlocks slot n i pl s k) := by
  induction n generalizing i pl s with
  | zero => exact hk pl s
  | succ n ih => exact orFault fun _ => orSeFailed (seEcb_frame ..).seOnly fun _ s => ih _ _ s

theorem same_commitJoin (v : Variant) (pl : List Byte) (f : JoinAccept) (s : State) :
    Same [.memory, .uplink, .streams] s (commitJoin v pl f s) where
  same a ha := by
    cases a with
    | memory | uplink | streams => exact absurd (by decide) ha
    | _ => rfl

theorem same_applyCflist (l : Option (List Byte)) (s : State) : Same W s (applyCflist l s) := by
  cases l with
  | none => exact Same.refl s
  | some l => exact Same.log s _

theorem secJoinacc (reqType : Byte) (joinEui : Eui) (devNonce : Half) (s : State) :
    Keeps [.memory, .uplink, .streams] s (execSecJoinacc reqType joinEui devNonce s) :=
  ite raise (ite raise (ite raise (orFault fun _ => decryptBlocks (fun _ _ =>
    orSeFailed (joinacceptMic_frame ..).seOnly fun _ _ => ite raise
      (orSeFailed (deriveAll_frame ..) fun _ s =>
        done ((same_commitJoin _ _ _ s).trans (same_applyCflist _ _)))) _ _ _ _ _)))

theorem derives (l : List (List Byte × KeySlot × KeySlot)) (s : State) :
    Keeps W s (Machine.orSeFailed (deriveAll l s) fun _ s => Machine.done [] s) :=
  orSeFailed (deriveAll_frame l s) fun _ s => done (Same.refl s)

/-! ### Counters, duty cycle and receive windows -/

theorem fcntReconstruct (k : BitVec 3) (wire : Half) (s : State) : Keeps W s (execFcntReconstruct k wire s) :=
  ite raise (ite raise (ite (done (Same.refl s)) (ite raise (ite raise (ite raise (done (Same.refl s)))))))

/-- The counters of the streams and of the uplink. -/
theorem same_counters (s : State) (up n a last : Word) (mc : Vector Word 4) (valid : BitVec 6) :
    Same [.uplink, .streams] s { s with
      r := { s.r with fcntUp := up, nFcntDown := n, aFcntDown := a, lastDownFcnt := last, mcFcntDown := mc,
                      fcntValid := valid } } where
  same a ha := by
    cases a with
    | uplink | streams => exact absurd (by decide) ha
    | _ => rfl

theorem fcntReset (scope h : BitVec 2) (s : State) : Keeps [.uplink, .streams] s (execFcntReset scope h s) :=
  ite (done (same_counters s _ _ _ _ _ _)) (ite (done (same_counters s _ _ _ _ _ _))
    (ite (done (same_counters s _ _ _ _ _ _)) raise))

theorem same_duty (s : State) (off last : Word) (valid : Bool) :
    Same [.duty] s { s with r := { s.r with aggTimeOff := off, lastAggTx := last, aggTxValid := valid } } where
  same a ha := by
    cases a with
    | duty => exact absurd (by decide) ha
    | _ => rfl

theorem dcTxUpdate (now toa : Word) (channel : Byte) (s : State) : Keeps [.duty] s (execDcTxUpdate now toa channel s) :=
  ite raise (done ((Same.log s _).trans (same_duty _ _ _ _)))

/-- The class A timers are no aspect of their own. -/
theorem same_classATimers (s : State) (rx1 rx2 ackTo dcDelay : Timer) :
    Same W s { s with t := { s.t with rx1 := rx1, rx2 := rx2, ackTo := ackTo, dcDelay := dcDelay } } where
  same a _ := by cases a <;> rfl

theorem dcSchedule (now : Word) (allow : Bool) (s : State) : Keeps W s (exec (.dcSchedule now allow) s) := by
  have hcall : Same W s (regionNextChannel now s.r.chDatarate s.r.joined (aggWait s.r now) s).2 :=
    Same.of_callsOnly (regionNextChannel_frame _ _ _ _ s)
  cases hans : (regionNextChannel now s.r.chDatarate s.r.joined (aggWait s.r now) s).1 with
  | none =>
    rw [DutyCycleAdr.dcSchedule_noChannel allow hans]
    exact after hcall raise
  | some answer =>
    rw [DutyCycleAdr.dcSchedule_channel allow hans]
    refine Post.next (hcall.trans ?_)
    split
    · exact Same.reply ..
    · split
      · exact (same_classATimers _ _ _ _ _).trans (Same.reply ..)
      · exact Same.reply ..

/-- The datarate and the power are no aspects. -/
theorem same_radio (s : State) (dr pw : Byte) :
    Same W s { s with r := { s.r with chDatarate := dr, chTxPower := pw } } where
  same a _ := by cases a <;> rfl

theorem adrNext (s : State) : Keeps W s (execAdrNext s) :=
  ite (done (Same.setFd ..)) (after ((Same.of_callsOnly (regionAdrNext_frame _ _ _ s)).trans (same_radio _ _ _))
    (done (Same.setFd ..)))

/-- Neither is the ADR ack counter. -/
theorem same_adrAckCnt (s : State) (n : Word) : Same W s { s with r := { s.r with adrAckCnt := n } } where
  same a _ := by cases a <;> rfl

theorem adrUplinkEnd (down : Bool) (s : State) : Keeps W s (execAdrUplinkEnd down s) :=
  ite (done (same_adrAckCnt ..)) (done (Same.refl s))

theorem same_ack (s : State) (n m : BitVec 4) :
    Same [.ack] s { s with r := { s.r with ackRetries := n, ackRetryCnt := m } } where
  same a ha := by
    cases a with
    | ack => exact absurd (by decide) ha
    | _ => rfl

theorem ackStart (retries : Byte) (s : State) : Keeps [.ack] s (execAckStart retries s) := done (same_ack s _ _)

theorem same_ackStep (s : State) : Same W s (ackStep s) := by
  unfold ackStep
  split
  · exact (Same.of_callsOnly (regionNextLowerDr_frame _ s)).trans (same_radio _ _ _)
  · exact Same.refl s

/-- The end of an exchange: the count and the class A timers. -/
theorem same_closed (s : State) (n : BitVec 4) (rx1 rx2 ackTo dcDelay : Timer) :
    Same [.ack] s { s with
      r := { s.r with ackRetryCnt := n }
      t := { s.t with rx1 := rx1, rx2 := rx2, ackTo := ackTo, dcDelay := dcDelay } } where
  same a ha := by
    cases a with
    | ack => exact absurd (by decide) ha
    | _ => rfl

theorem ackGiveUp (s : State) : Keeps [.ack] s (Machine.ackGiveUp s) :=
  Post.next (((same_closed s _ _ _ _ _).trans (Same.log _ .regionRestoreDefaults)).trans (Same.reply ..))

theorem ackTimeout (s : State) : Keeps [.ack] s (execAckTimeout s) :=
  ite raise (ite (ackGiveUp s) (done ((same_ack s _ _).trans (same_ackStep _))))

theorem ackReceived (s : State) : Keeps [.ack] s (execAckReceived s) := ite raise (done (same_closed s _ _ _ _ _))

theorem rxwTxDone (now : Word) (confirmed : Bool) (s : State) :
    Keeps [.slot] s (exec (.rxwTxDone now confirmed) s) := by
  rw [RxWindows.rxwTxDone_eq]
  refine done (Same.trans ?_ (Same.restOrListen _))
  have hasked : CallsOnly s (RxWindows.rx2Asked s).2 := (regionWindow_frame _ s).trans (regionWindow_frame _ _)
  rw [RxWindows.armRx_eq]
  exact (Same.of_callsOnly hasked).trans (same_classATimers _ _ _ _ _)

theorem rxwOpen (win2 : Bool) (s : State) : Keeps [.slot] s (execRxwOpen win2 s) := by
  have hasked : Same [.slot] s (RxWindows.openConfig win2 s).2 :=
    Same.of_seOnly (MadeCalls.of_openConfig (keys := false) win2 s).frame
  rw [RxWindows.execRxwOpen_eq]
  exact ite (done ((hasked.trans (Same.setSlot _ _)).trans (Same.log ..))) (after hasked raise)

theorem rxwRxDone (outcome : BitVec 2) (s : State) : Keeps [.slot] s (execRxwRxDone outcome s) := by
  refine ite raise (done (Same.trans ?_ (Same.restOrListen _)))
  split
  · exact same_classATimers s _ _ _ _
  · exact Same.refl s

/-! ### Class B -/

theorem same_slots (s : State) (p : Ping) (mc : Vector McEntry 4) : Same [.slots] s { s with p := p, mc := mc } where
  same a ha := by
    cases a with
    | slots => exact absurd (by decide) ha
    | _ => rfl

/-- The registers of the tracker and of the slots, and the class B timers, written together. -/
theorem same_classB (s : State) (b : Beacon) (path : List BeaconState) (p : Ping) (mc : Vector McEntry 4)
    (beacon ping mcslot : Timer) :
    Same [.tracker, .slots, .timers] s { s with
      b := b, path := path, p := p, mc := mc
      t := { s.t with beacon := beacon, ping := ping, mcslot := mcslot } } where
  same a ha := by
    cases a with
    | tracker | slots | timers => exact absurd (by decide) ha
    | _ => rfl

theorem same_acquiring (s : State) : Same [.tracker, .slots] s (ClassB.acquiring s) where
  same a ha := by
    cases a with
    | tracker | slots => exact absurd (by decide) ha
    | _ => rfl

theorem bcnAcquire (now : Word) (s : State) : Keeps [.slot, .tracker, .slots] s (execBcnAcquire now s) :=
  ite raise (ite raise (done ((same_acquiring s).mono.trans (Same.openBeacon _ _).mono)))

/-- The state in which `EnterIdle` arms the slot timers. -/
def idleStart (s : State) : State :=
  { (renewSlots s).enter .idle with
    t := s.t.arm .beacon (s.b.epoch + BitVec.ofNat 32 s.par.beaconInterval - BitVec.ofNat 32 s.par.beaconGuard) }

theorem enterIdle_eq (now : Word) (s : State) :
    enterIdle now s = ((armMc now (armPing now (idleStart s))).setSlot .none).log .radioSleep := rfl

theorem same_idleStart (s : State) : Same [.tracker, .slots, .timers] s (idleStart s) :=
  same_classB s _ _ _ _ _ _ _

theorem same_enterIdle (now : Word) (s : State) : Same [.slot, .tracker, .slots, .timers] s (enterIdle now s) := by
  have harmed : Same [.slots, .timers] (idleStart s) (Machine.armMc now (Machine.armPing now (idleStart s))) :=
    (Same.armPing now _).trans (Same.armMc now _)
  rw [enterIdle_eq]
  exact (((same_idleStart s).mono.trans harmed.mono).trans (Same.setSlot _ .none).mono).trans (Same.log ..)

theorem same_lockedOn (tBeacon timeS : Word) (s : State) :
    Same [.tracker, .slots] s (ClassB.lockedOn tBeacon timeS s) where
  same a ha := by
    cases a with
    | tracker | slots => exact absurd (by decide) ha
    | _ => rfl

theorem bcnRxBeacon (now tBeacon timeS : Word) (s : State) :
    Keeps [.slot, .tracker, .slots, .timers] s (exec (.bcnRxBeacon now tBeacon timeS) s) := by
  by_cases h : ClassB.AwaitsBeacon s
  · rw [ClassB.bcnRxBeacon_locks now tBeacon timeS h]
    exact done ((same_lockedOn tBeacon timeS s).mono.trans (same_enterIdle now _))
  · rw [ClassB.bcnRxBeacon_unexpected now tBeacon timeS h]
    exact raise

theorem same_lostBeacon (s : State) : Same [.slot, .cls, .tracker, .timers] s (lostBeacon s) where
  same a ha := by
    simp only [lostBeacon, ClassB.leaveClassB_eq]
    cases a with
    | slot | cls | tracker | timers => exact absurd (by decide) ha
    | _ => rfl

theorem same_missed (s : State) : Same [.tracker] s (ClassB.missed s) :=
  (Same.enter s .timeout).trans (Same.enter _ .beaconMissed)

theorem same_extrapolate (s : State) : Same [.tracker, .slots] s (extrapolate s) where
  same a ha := by
    cases a with
    | tracker | slots => exact absurd (by decide) ha
    | _ => rfl

theorem bcnRxTimeout (now : Word) (s : State) :
    Keeps [.slot, .cls, .tracker, .slots, .timers] s (exec (.bcnRxTimeout now) s) := by
  by_cases h : ClassB.AwaitsBeacon s
  · by_cases hgone : ClassB.BeaconGone s now
    · rw [ClassB.bcnRxTimeout_lost h hgone]
      exact done ((same_missed s).mono.trans (same_lostBeacon _).mono)
    · rw [ClassB.bcnRxTimeout_extrapolates h hgone]
      have hextra : Same [.tracker, .slots] s ((extrapolate (ClassB.missed s)).enter .reacquisition) :=
        ((same_missed s).mono.trans (same_extrapolate _)).trans (Same.enter _ .reacquisition).mono
      exact done (hextra.mono.trans (same_enterIdle now _).mono)
  · rw [ClassB.bcnRxTimeout_unexpected now h]
    exact raise

theorem bcnTimer (now : Word) (s : State) : Keeps [.slot, .tracker, .timers] s (exec (.bcnTimer now) s) := by
  by_cases hstale : s.b.run = false ∨ (s.b.state ≠ .idle ∧ s.b.state ≠ .guard)
  · rw [ClassB.bcnTimer_stale now hstale]
    exact raise
  · obtain ⟨hrun, hstate⟩ := not_or.1 hstale
    have hrun : s.b.run = true := by simpa using hrun
    by_cases hidle : s.b.state = .idle
    · rw [ClassB.bcnTimer_idle now hrun hidle, RxWindows.regionWindow_state]
      refine Post.next ⟨fun a ha => ?_⟩
      cases a with
      | slot | tracker | timers => exact absurd (by decide) ha
      | _ => rfl
    · have hguard : s.b.state = .guard := by
        by_contra hno
        exact hstate ⟨hidle, hno⟩
      rw [ClassB.bcnTimer_guard now hrun hguard]
      have hasked := Same.of_callsOnly (W := [.tracker])
        (regionWindow_frame (.regionBeaconWindow s.b.symto) (s.enter .rx))
      exact done (((Same.enter s .rx).trans hasked).mono.trans (Same.openBeacon _ _).mono)

theorem pingSetInfo (per : BitVec 3) (now : Word) (s : State) :
    Keeps [.slots, .timers] s (execPingSetInfo per now s) := by
  have hinfo : Same [.slots, .timers] s (setPingInfo per s) := (same_slots s _ _).mono
  refine ite (done (hinfo.trans ?_)) (done hinfo)
  split
  · exact (same_slots _ _ _).mono.trans (Same.armPing now _)
  · exact (same_slots _ _ _).mono

theorem pingTimer (now : Word) (s : State) : Keeps [.slot, .slots, .timers] s (execPingTimer now s) :=
  have htaken : Same [.slot, .slots, .timers] s (SlotTimers.pingTaken s) := (same_slots s _ _).mono
  ite raise (ite (done (htaken.trans (Same.armPing now _).mono))
    (done ((htaken.trans (Same.openSlot _ _ _ _).mono).trans (Same.armPing now _).mono)))

theorem mcslotTimer (now : Word) (s : State) : Keeps [.slot, .slots, .timers] s (execMcslotTimer now s) :=
  have htaken : Same [.slot, .slots, .timers] s (SlotTimers.mcTaken s) := (same_slots s _ _).mono
  ite raise (ite (done (htaken.trans (Same.armMc now _).mono))
    (done ((htaken.trans (Same.openSlot _ _ _ _).mono).trans (Same.armMc now _).mono)))

theorem slotRxDone (outcome : BitVec 2) (s : State) : Keeps [.slot] s (execSlotRxDone outcome s) :=
  ite raise (done ((Same.setSlot s .none).trans (Same.log ..)))

end Keeps

/-- Every instruction leaves the aspects that `writes` does not list. -/
theorem exec_keeps (i : Instr) (s : State) : Keeps (writes i) s (exec i s) := by
  cases i with
  | sysInit => exact Keeps.sysInit s
  | mibGet => exact Keeps.mibGet _ s
  | mibSet => exact Keeps.mibSet _ _ s
  | sysSetClass => exact Keeps.sysSetClass _ _ s
  | evtDrain => exact Keeps.evtDrain s
  | mcAdd => exact Keeps.mcAdd _ _ _ _ _ _ s
  | mcRemove => exact Keeps.mcRemove _ _ s
  | serJoinreq => exact Keeps.ite Keeps.raise (Keeps.serialize _ _ _)
  | serRejoin => exact Keeps.serRejoin _ _
  | serJoinacc => exact Keeps.serJoinacc _ _
  | serData => exact Keeps.serData _ _
  | parseJoinreq => exact Keeps.ite Keeps.raise (Keeps.orFault fun _ => Keeps.done (Same.setFd ..))
  | parseRejoin => exact Keeps.parseRejoin s
  | parseJoinacc => exact Keeps.ite Keeps.raise (Keeps.orFault fun _ => Keeps.done (Same.setJoinAccept ..))
  | parseData => exact Keeps.withDataFrame fun _ _ => Keeps.done (Same.setDataFrame ..)
  | frameClassify =>
    exact Keeps.ite Keeps.raise (Keeps.orFault fun _ => Keeps.ite Keeps.raise (Keeps.done (Same.refl s)))
  | frameMatchAddr => exact Keeps.frameMatchAddr s
  | framePlaceCmds => exact Keeps.framePlaceCmds _ _ _
  | portCheck => exact Keeps.ite (Keeps.done (Same.refl s)) (Keeps.ite (Keeps.done (Same.refl s)) Keeps.raise)
  | secUplink => exact Keeps.secUplink _ _ _ _ _
  | secDownlink => exact Keeps.secDownlink _ _ _ _ _
  | secJoinreq => exact Keeps.secJoinreq _ _
  | secRejoin => exact Keeps.secRejoin _ _
  | secJoinacc => exact Keeps.secJoinacc _ _ _ _
  | secDeriveSession | secDeriveMc | secDeriveLifetime => exact Keeps.derives _ s
  | fcntNextUp => exact Keeps.ite Keeps.raise (Keeps.done (Same.refl s))
  | fcntReconstruct => exact Keeps.fcntReconstruct _ _ _
  | fcntReset => exact Keeps.fcntReset _ _ _
  | dcTxUpdate => exact Keeps.dcTxUpdate _ _ _ _
  | dcSchedule => exact Keeps.dcSchedule _ _ _
  | adrNext => exact Keeps.adrNext s
  | adrUplinkEnd => exact Keeps.adrUplinkEnd _ _
  | ackStart => exact Keeps.ackStart _ _
  | ackTimeout => exact Keeps.ackTimeout s
  | ackReceived => exact Keeps.ackReceived s
  | rxwTxDone => exact Keeps.rxwTxDone _ _ _
  | rxwOpen => exact Keeps.rxwOpen _ _
  | rxwRxDone => exact Keeps.rxwRxDone _ _
  | bcnAcquire now => exact Keeps.bcnAcquire now s
  | bcnRxBeacon => exact Keeps.bcnRxBeacon _ _ _ _
  | bcnRxTimeout => exact Keeps.bcnRxTimeout _ _
  | bcnTimer => exact Keeps.bcnTimer _ _
  | bcnHalt => exact Keeps.done (Keeps.same_haltTracker s)
  | pingSetInfo => exact Keeps.pingSetInfo _ _ _
  | pingTimer => exact Keeps.pingTimer _ _
  | mcslotTimer => exact Keeps.mcslotTimer _ _
  | slotRxDone outcome => exact Keeps.slotRxDone outcome s
  | evtPost => exact Keeps.evtPost _ _ _
  | frameJoinRequest | frameRejoin02 | frameRejoin1 | frameJoinAccept | frameData => exact Keeps.storeFrame _ s
  | mhdr | mtypeJoinRequest | mtypeJoinAccept | mtypeUnconfirmedDataUp | mtypeUnconfirmedDataDown
  | mtypeConfirmedDataUp | mtypeConfirmedDataDown | mtypeRejoinRequest | mtypeProprietary | dlsettings | fctrl =>
    exact Post.next (Same.setFd ..)

theorem exec_same {i : Instr} {s t : State} (ht : exec i s = .next t) (a : Aspect)
    (ha : decide (a ∈ writes i) = false) : a.same s t :=
  (exec_keeps i s t ht).same a (of_decide_eq_false ha)

end Sys2Proof.Proofs.Footprint
end

section
/-! The laws over all instructions, each by its few writers: the slot identity (44_rx_windows.md R205), the tracker's
order (45_classb_beacon.md R216), the event flags (46_system.md R254, R255), and the counters (42_counters.md R162,
R166, 43_dutycycle_adr.md R181). -/

namespace Sys2Proof.Proofs.InstructionLaws

open Sys2Proof Sys2Proof.Machine
open Sys2Proof.Proofs.Footprint

/-! ### The slot identity -/

theorem restOrListen_slot (s : State) : (restOrListen s).r.rxSlot = .classC ∨ (restOrListen s).r.rxSlot = .none := by
  rw [RxWindows.restOrListen_state]
  dsimp only
  split
  · exact .inl rfl
  · exact .inr rfl

/-- The slot identity after the outcome is the one before or one of `l`. -/
abbrev GivesSlot (l : List RxSlot) (s : State) (o : Out) : Prop :=
  Post (fun t => t.r.rxSlot = s.r.rxSlot ∨ t.r.rxSlot ∈ l) o

theorem GivesSlot.raise {l : List RxSlot} {s : State} {st : Status} : GivesSlot l s (raise st s) :=
  Post.raise (.inl rfl)

theorem GivesSlot.ite {l : List RxSlot} {s : State} {p : Prop} {_ : Decidable p} {o o' : Out} (h : GivesSlot l s o)
    (h' : GivesSlot l s o') : GivesSlot l s (if p then o else o') := Post.ite (fun _ => h) fun _ => h'

theorem GivesSlot.done {l : List RxSlot} {s u : State} {res : List Byte} (h : u.r.rxSlot ∈ l) :
    GivesSlot l s (done res u) := Post.done (.inr h)

theorem rxwTxDone_slot (now : Word) (confirmed : Bool) (s : State) :
    GivesSlot [.classC, .none] s (exec (.rxwTxDone now confirmed) s) := by
  rw [RxWindows.rxwTxDone_eq]
  exact GivesSlot.done (by simpa using restOrListen_slot _)

theorem rxwOpen_slot (win2 : Bool) (s : State) : GivesSlot [winSlot win2] s (exec (.rxwOpen win2) s) := by
  cases hans : (RxWindows.openConfig win2 s).1 with
  | false =>
    rw [RxWindows.rxwOpen_refused hans, RxWindows.openConfig_state]
    exact Post.next (.inl rfl)
  | true =>
    rw [RxWindows.rxwOpen_accepted hans]
    exact GivesSlot.done (List.mem_singleton.2 rfl)

theorem rxwRxDone_slot (outcome : BitVec 2) (s : State) :
    GivesSlot [.classC, .none] s (execRxwRxDone outcome s) :=
  .ite .raise (.done (by simpa using restOrListen_slot _))

theorem openBeacon_slot (limit : Word) (s : State) : (openBeacon limit s).r.rxSlot = .beacon := by
  rw [ClassB.openBeacon_state]

theorem bcnAcquire_slot (now : Word) (s : State) : GivesSlot [.beacon] s (execBcnAcquire now s) :=
  .ite .raise (.ite .raise (.done (List.mem_singleton.2 (openBeacon_slot _ _))))

theorem enterIdle_slot (now : Word) (s : State) : (enterIdle now s).r.rxSlot ∈ [RxSlot.none] :=
  List.mem_singleton.2 (enterIdle_state now s).2.1

theorem bcnRxBeacon_slot (now tBeacon timeS : Word) (s : State) :
    GivesSlot [.none] s (execBcnRxBeacon now tBeacon timeS s) := .ite .raise (.done (enterIdle_slot now _))

theorem bcnRxTimeout_slot (now : Word) (s : State) : GivesSlot [.none] s (execBcnRxTimeout now s) :=
  .ite .raise (.ite (.done (List.mem_singleton.2 rfl)) (.done (enterIdle_slot now _)))

theorem bcnTimer_slot (now : Word) (s : State) : GivesSlot [.beacon] s (execBcnTimer now s) :=
  .ite .raise (.ite (Post.done (.inl (congrArg Regs.rxSlot (RxWindows.regionWindow_r _ _))))
    (.ite (.done (List.mem_singleton.2 (openBeacon_slot _ _))) .raise))

theorem haltTracker_slot (s : State) :
    (haltTracker s).r.rxSlot = s.r.rxSlot ∨ (haltTracker s).r.rxSlot ∈ [RxSlot.none] := by
  by_cases hlisten : ClassB.ListensClassB s.r
  · rw [ClassB.haltTracker_listening hlisten]
    exact .inr (List.mem_singleton.2 rfl)
  · rw [ClassB.haltTracker_idle hlisten, ClassB.leaveClassB_eq]
    exact .inl rfl

theorem classAToC_slot (s : State) : (classAToC s).r.rxSlot = .classC := by
  rw [classAToC, RxWindows.listen_state]
  rfl

theorem sysSetClass_slot (cls : BitVec 2) (now : Word) (s : State) :
    GivesSlot [.classC, .none] s (execSysSetClass cls now s) := by
  unfold execSysSetClass
  split
  · exact .raise
  · next target _ =>
    cases s.r.deviceClass <;> cases target
    case a.b => exact .ite .raise (Post.done (.inl ((Keeps.same_classAToB now _).same .slot (by decide))))
    case a.c => exact .ite .raise (.done (by simp [classAToC_slot]))
    case b.a => exact Post.done ((haltTracker_slot (closeExchange s)).imp id (List.mem_cons_of_mem _))
    case c.a => exact .done (by simp [classCToA])
    case b.c | c.b => exact .raise
    case a.a | b.b | c.c => exact Post.done (.inl rfl)

theorem pingTimer_slot (now : Word) (s : State) : GivesSlot [.pingSlot] s (execPingTimer now s) :=
  .ite .raise (.ite (Post.done (.inl (congrArg Regs.rxSlot (armPing_r now _))))
    (.done (List.mem_singleton.2 ((congrArg Regs.rxSlot (armPing_r now _)).trans (by rw [SlotTimers.openSlot_r])))))

theorem mcslotTimer_slot (now : Word) (s : State) : GivesSlot [.mcSlot] s (execMcslotTimer now s) :=
  .ite .raise (.ite (Post.done (.inl (SlotTimers.armMc_rxSlot now _)))
    (.done (List.mem_singleton.2 ((SlotTimers.armMc_rxSlot now _).trans (by rw [SlotTimers.openSlot_r])))))

theorem slotRxDone_slot (outcome : BitVec 2) (s : State) : GivesSlot [.none] s (execSlotRxDone outcome s) :=
  .ite .raise (.done (List.mem_singleton.2 rfl))

/-- The slot identities an instruction can give. -/
def newSlots : Instr → List RxSlot
  | .sysInit => [.none]
  | .sysSetClass .. => [.classC, .none]
  | .rxwTxDone .. => [.classC, .none]
  | .rxwOpen win2 => [winSlot win2]
  | .rxwRxDone .. => [.classC, .none]
  | .bcnAcquire .. => [.beacon]
  | .bcnRxBeacon .. => [.none]
  | .bcnRxTimeout .. => [.none]
  | .bcnTimer .. => [.beacon]
  | .bcnHalt => [.none]
  | .pingTimer .. => [.pingSlot]
  | .mcslotTimer .. => [.mcSlot]
  | .slotRxDone .. => [.none]
  | _ => []

theorem exec_newSlots (i : Instr) (s : State) : GivesSlot (newSlots i) s (exec i s) := by
  cases hw : decide (Aspect.slot ∈ writes i) with
  | false => exact fun t ht => .inl (exec_same ht .slot hw)
  | true =>
    cases i with
    | sysInit => exact .done (List.mem_singleton.2 rfl)
    | sysSetClass => exact sysSetClass_slot _ _ s
    | rxwTxDone => exact rxwTxDone_slot _ _ s
    | rxwOpen => exact rxwOpen_slot _ s
    | rxwRxDone => exact rxwRxDone_slot _ s
    | bcnAcquire now => exact bcnAcquire_slot now s
    | bcnRxBeacon => exact bcnRxBeacon_slot _ _ _ s
    | bcnRxTimeout => exact bcnRxTimeout_slot _ s
    | bcnTimer now => exact bcnTimer_slot now s
    | bcnHalt => exact Post.done (haltTracker_slot s)
    | pingTimer => exact pingTimer_slot _ s
    | mcslotTimer => exact mcslotTimer_slot _ s
    | slotRxDone outcome => exact slotRxDone_slot outcome s
    | _ => exact nomatch hw

/-- Settles O46: `exec_newSlots`, instruction by instruction. -/
theorem rxSlotWriters : Obligations.RxSlotWriters := by
  intro i s t ht hne
  have hnew := (exec_newSlots i s t ht).resolve_left hne
  cases i with
  | rxwOpen win2 =>
    rw [List.mem_singleton.1 hnew]
    cases win2 <;> rfl
  | sysInit | bcnAcquire | bcnRxBeacon | bcnRxTimeout | bcnTimer | bcnHalt | pingTimer | mcslotTimer | slotRxDone =>
    rw [List.mem_singleton.1 hnew]
    simp
  | sysSetClass | rxwTxDone | rxwRxDone =>
    rcases List.mem_pair.1 (show t.r.rxSlot ∈ [RxSlot.classC, .none] from hnew) with h | h
    · rw [h]
      simp
    · rw [h]
      simp
  | _ => exact nomatch hnew

/-! ### The tracker's order -/

/-- The tracker went from `s` to `t` along these transitions. -/
def Follows (s t : State) : Prop :=
  ∃ l, t.path = s.path ++ l ∧ beaconPath s.b.state l = true ∧ t.b.state = l.getLastD s.b.state

theorem Follows.of_same {s t : State} (h : Aspect.tracker.same s t) : Follows s t := by
  have hb : t.b = s.b := congrArg Prod.fst h
  have hpath : t.path = s.path := congrArg Prod.snd h
  exact ⟨[], by rw [hpath, List.append_nil], rfl, by rw [hb]; rfl⟩

/-- A halt leads to `ACQUISITION` from everywhere. -/
theorem follows_haltTracker (s : State) : Follows s (haltTracker s) := by
  have hpath : (haltTracker s).path = s.path ++ [.acquisition] := by
    by_cases hlisten : ClassB.ListensClassB s.r
    · rw [ClassB.haltTracker_listening hlisten]
    · rw [ClassB.haltTracker_idle hlisten]
  exact ⟨_, hpath, by cases s.b.state <;> rfl, (haltTracker_state s).1⟩

theorem follows_sysSetClass (cls : BitVec 2) (now : Word) (s : State) :
    Post (Follows s) (execSysSetClass cls now s) := by
  have hab : Same [.ack, .cls, .slots, .timers] s (classAToB now (closeExchange s)) :=
    (Same.closeExchange s).mono.trans (Keeps.same_classAToB now _).mono
  have hac : Same [.ack, .cls, .slot] s (classAToC (closeExchange s)) :=
    (Same.closeExchange s).mono.trans (Keeps.same_classAToC _).mono
  unfold execSysSetClass
  split
  · exact Post.raise (.of_same rfl)
  · next target _ =>
    cases s.r.deviceClass <;> cases target
    case a.b =>
      exact Post.ite (fun _ => Post.raise (.of_same rfl)) fun _ => Post.done (.of_same (hab.same .tracker (by decide)))
    case a.c =>
      exact Post.ite (fun _ => Post.raise (.of_same rfl)) fun _ => Post.done (.of_same (hac.same .tracker (by decide)))
    case b.a => exact Post.done (Q := Follows s) (follows_haltTracker (closeExchange s))
    case b.c | c.b => exact Post.raise (.of_same rfl)
    case a.a | b.b | c.c | c.a => exact Post.done (.of_same rfl)

theorem follows_bcnAcquire (now : Word) (s : State) : Post (Follows s) (exec (.bcnAcquire now) s) := by
  cases hrun : s.b.run with
  | true =>
    rw [ClassB.bcnAcquire_running now hrun]
    exact Post.next (.of_same rfl)
  | false =>
    by_cases hclass : s.r.deviceClass = .c
    · rw [ClassB.bcnAcquire_classC now hrun hclass]
      exact Post.next (.of_same rfl)
    · rw [ClassB.bcnAcquire_starts now hrun hclass, ClassB.openBeacon_state]
      exact Post.next ⟨[.acquisition], rfl, by cases s.b.state <;> rfl, rfl⟩

/-- The two states in which a beacon reception can end. -/
theorem beaconPath_of_awaits {s : State} (h : ClassB.AwaitsBeacon s) (x : BeaconState) (l : List BeaconState)
    (hx : x = .locked ∨ x = .timeout) : beaconPath s.b.state (x :: l) = beaconPath x l := by
  obtain ⟨-, -, hstate⟩ := h
  rcases hstate with hs | hs <;> rcases hx with rfl | rfl <;> rw [hs] <;> rfl

theorem follows_bcnRxBeacon (now tBeacon timeS : Word) (s : State) :
    Post (Follows s) (exec (.bcnRxBeacon now tBeacon timeS) s) := by
  by_cases h : ClassB.AwaitsBeacon s
  · rw [ClassB.bcnRxBeacon_locks now tBeacon timeS h]
    obtain ⟨hstate, -, hpath⟩ := enterIdle_state now (ClassB.lockedOn tBeacon timeS s)
    refine Post.next ⟨[.locked, .idle], hpath.trans (List.append_assoc ..), ?_, hstate⟩
    rw [beaconPath_of_awaits h _ _ (.inl rfl)]
    rfl
  · rw [ClassB.bcnRxBeacon_unexpected now tBeacon timeS h]
    exact Post.next (.of_same rfl)

theorem follows_bcnRxTimeout (now : Word) (s : State) : Post (Follows s) (exec (.bcnRxTimeout now) s) := by
  by_cases h : ClassB.AwaitsBeacon s
  · by_cases hgone : ClassB.BeaconGone s now
    · rw [ClassB.bcnRxTimeout_lost h hgone]
      refine Post.next ⟨[.timeout, .beaconMissed, .lost], ?_, ?_, rfl⟩
      · exact (lostBeacon_state _).2.2.2.trans (by simp [ClassB.missed])
      · rw [beaconPath_of_awaits h _ _ (.inr rfl)]
        rfl
    · rw [ClassB.bcnRxTimeout_extrapolates h hgone]
      obtain ⟨hstate, -, hpath⟩ := enterIdle_state now ((extrapolate (ClassB.missed s)).enter .reacquisition)
      refine Post.next ⟨[.timeout, .beaconMissed, .reacquisition, .idle], ?_, ?_, hstate⟩
      · exact hpath.trans (by simp [extrapolate, ClassB.missed])
      · rw [beaconPath_of_awaits h _ _ (.inr rfl)]
        rfl
  · rw [ClassB.bcnRxTimeout_unexpected now h]
    exact Post.next (.of_same rfl)

theorem follows_bcnTimer (now : Word) (s : State) : Post (Follows s) (exec (.bcnTimer now) s) := by
  by_cases hstale : s.b.run = false ∨ (s.b.state ≠ .idle ∧ s.b.state ≠ .guard)
  · rw [ClassB.bcnTimer_stale now hstale]
    exact Post.next (.of_same rfl)
  · obtain ⟨hrun, hstate⟩ := not_or.1 hstale
    have hrun : s.b.run = true := by simpa using hrun
    by_cases hidle : s.b.state = .idle
    · rw [ClassB.bcnTimer_idle now hrun hidle, RxWindows.regionWindow_state]
      exact Post.next ⟨[.guard], rfl, by rw [hidle]; rfl, rfl⟩
    · have hguard : s.b.state = .guard := by
        by_contra hno
        exact hstate ⟨hidle, hno⟩
      rw [ClassB.bcnTimer_guard now hrun hguard, ClassB.openBeacon_state, RxWindows.regionWindow_state]
      exact Post.next ⟨[.rx], rfl, by rw [hguard]; rfl, rfl⟩

/-- Settles O52: the commands that move the tracker, each along its own transitions. -/
theorem beaconOrder : Obligations.BeaconOrder := by
  intro i s t ht hinit
  cases hw : decide (Aspect.tracker ∈ writes i) with
  | false => exact Follows.of_same (exec_same ht .tracker hw)
  | true =>
    cases i with
    | sysInit => exact absurd rfl hinit
    | sysSetClass cls now => exact follows_sysSetClass cls now s t ht
    | bcnAcquire now => exact follows_bcnAcquire now s t ht
    | bcnRxBeacon now tBeacon timeS => exact follows_bcnRxBeacon now tBeacon timeS s t ht
    | bcnRxTimeout now => exact follows_bcnRxTimeout now s t ht
    | bcnTimer now => exact follows_bcnTimer now s t ht
    | bcnHalt => exact Post.done (Q := Follows s) (follows_haltTracker s) t ht
    | _ => exact nomatch hw

/-! ### The event flags -/

theorem exec_evtPost (n : BitVec 4) (clock : Word) (s : State) : exec (.evtPost n clock) s = execEvtPost n clock s :=
  rfl

theorem evtDrain_eq (s : State) :
    exec .evtDrain s = .next { answeredOk [s.evt.setWidth 8, (s.evt >>> 8).setWidth 8] s with evt := 0 } := by
  have hbytes : leBytes 2 s.evt.toNat = [s.evt.setWidth 8, (s.evt >>> 8).setWidth 8] := by
    simp only [leBytes, List.cons.injEq, and_true]
    refine ⟨by bv_omega, ?_⟩
    apply BitVec.eq_of_toNat_eq
    simp [Nat.shiftRight_eq_div_pow]
  rw [← hbytes]
  rfl

/-- The post of a timer's expiry. -/
theorem evtPost_timer {n : BitVec 4} {x : TimerName} (clock : Word) (s : State) (hn : ¬ n.toNat ≤ 4)
    (hx : timerOfBit n = some x) :
    exec (.evtPost n clock) s = .next
      (if (s.t.get x).armed = true ∧ (clock - (s.t.get x).due).toNat < 2 ^ 31
       then { s with t := s.t.disarm x, evt := s.evt ||| (1#16 <<< n.toNat) } else s) := by
  rw [exec_evtPost, execEvtPost, if_neg hn]
  simp only [hx, reached, decide_eq_true_eq]
  split <;> rfl

theorem and_or_self {n : Nat} (x y : BitVec n) : x &&& (x ||| y) = x := by
  ext i hi
  simp only [BitVec.getElem_and, BitVec.getElem_or]
  cases x[i] <;> rfl

/-- A post loses no flag. -/
theorem evtPost_evt (n : BitVec 4) (clock : Word) (s : State) :
    Post (fun t => s.evt &&& t.evt = s.evt) (execEvtPost n clock s) := by
  have hset : s.evt &&& setFlag s.evt n = s.evt := and_or_self _ _
  refine Post.ite (fun _ => Post.next hset) fun _ => ?_
  split
  · exact Post.next BitVec.and_self
  · exact Post.ite (fun _ => Post.next hset) fun _ => Post.next BitVec.and_self

/-- Settles O58: a post by the rule of its bit; of the three instructions that write the flags, two are excepted. -/
theorem eventFlags : Obligations.EventFlags := by
  intro clock s
  refine ⟨evtDrain_eq s, fun n hn => if_pos hn, fun n hn => ?noSource, fun n x ts hrow => ?timer,
    fun i t ht hdrain hinit => ?kept⟩
  case noSource =>
    simp only [List.mem_cons, List.not_mem_nil, or_false] at hn
    rcases hn with rfl | rfl | rfl | rfl <;> rfl
  case timer =>
    simp only [List.mem_cons, Prod.mk.injEq, List.not_mem_nil, or_false] at hrow
    rcases hrow with ⟨rfl, rfl, rfl⟩ | ⟨rfl, rfl, rfl⟩ | ⟨rfl, rfl, rfl⟩ | ⟨rfl, rfl, rfl⟩ | ⟨rfl, rfl, rfl⟩
      | ⟨rfl, rfl, rfl⟩ | ⟨rfl, rfl, rfl⟩
    · exact evtPost_timer (x := .beacon) clock s (by decide) (by decide)
    · exact evtPost_timer (x := .mcslot) clock s (by decide) (by decide)
    · exact evtPost_timer (x := .ping) clock s (by decide) (by decide)
    · exact evtPost_timer (x := .rx1) clock s (by decide) (by decide)
    · exact evtPost_timer (x := .rx2) clock s (by decide) (by decide)
    · exact evtPost_timer (x := .ackTo) clock s (by decide) (by decide)
    · exact evtPost_timer (x := .dcDelay) clock s (by decide) (by decide)
  case kept =>
    cases hw : decide (Aspect.flags ∈ writes i) with
    | false =>
      have hsame : t.evt = s.evt := exec_same ht .flags hw
      exact ⟨by rw [hsame, BitVec.and_self], fun _ => hsame⟩
    | true =>
      cases i with
      | sysInit => exact absurd rfl hinit
      | evtDrain => exact absurd rfl hdrain
      | evtPost n c => exact ⟨evtPost_evt n c s t ht, fun hno => absurd rfl (hno n c)⟩
      | _ => exact nomatch hw

/-! ### What the security commands commit -/

/-- Either the command has completed with `OK` and `C` holds, or the registers `R.*` are `r`. -/
def Commits (r : Regs) (C : State → Prop) (o : Out) : Prop :=
  Post (fun t => (t.status = .ok → C t) ∧ (t.status ≠ .ok → t.r = r)) o

namespace Commits

variable {r : Regs} {C : State → Prop}

theorem raise {s : State} {st : Status} (hr : s.r = r) (hst : st ≠ .ok := by decide) : Commits r C (raise st s) :=
  Post.raise ⟨fun h => absurd h hst, fun _ => hr⟩

theorem done {u : State} {res : List Byte} (h : C (u.reply .ok res)) : Commits r C (done res u) :=
  Post.done ⟨fun _ => h, fun h => absurd rfl h⟩

theorem ite {p : Prop} {_ : Decidable p} {o o' : Out} (h : p → Commits r C o) (h' : ¬ p → Commits r C o') :
    Commits r C (if p then o else o') := Post.ite h h'

theorem orFault {α : Type} {a : Option α} {k : α → Out} (hk : ∀ x, Commits r C (k x)) :
    Commits r C (Machine.orFault a k) := Post.orFault fun x _ => hk x

theorem orSeFailed {α : Type} {s : State} {c : Option α × State} {k : α → State → Out} (hr : s.r = r)
    (hcall : SeOnly s c.2) (hk : ∀ x s', s'.r = r → Commits r C (k x s')) : Commits r C (Machine.orSeFailed c k) := by
  have hr' : c.2.r = r := by
    unfold SeOnly at hcall
    rw [← hcall]
    exact hr
  exact Post.orSeFailed ⟨nofun, fun _ => hr'⟩ fun x _ => hk x c.2 hr'

theorem withDataFrame {s : State} {k : List Byte → DataFrame → Out} (hr : s.r = r) (hk : ∀ b f, Commits r C (k b f)) :
    Commits r C (Machine.withDataFrame s k) := Post.withDataFrame ⟨nofun, fun _ => hr⟩ fun b _ _ _ => hk b _

theorem decryptBlocks {k : List Byte → State → Out} (hk : ∀ pl s', s'.r = r → Commits r C (k pl s')) (slot : KeySlot)
    (n i : Nat) (pl : List Byte) {s : State} (hr : s.r = r) : Commits r C (Machine.decryptBlocks slot n i pl s k) := by
  induction n generalizing i pl s with
  | zero => exact hk pl s hr
  | succ n ih => exact orFault fun _ => orSeFailed hr (seEcb_frame ..).seOnly fun _ s' hr' => ih _ _ hr'

/-- `SEC.UPLINK` commits its operand, which is no smaller than the counter. -/
theorem secUplink (c : Word) (dr ch cap : Byte) (s : State) :
    Commits s.r (fun t => t.r.fcntUp = c ∧ s.r.fcntUp.toNat ≤ c.toNat) (execSecUplink c dr ch cap s) :=
  ite (fun _ => raise rfl) fun _ => ite (fun _ => raise rfl) fun _ => ite (fun _ => raise rfl) fun hge =>
    ite (fun _ => raise rfl) fun _ => ite (fun _ => raise rfl) fun _ => orFault fun _ =>
    orSeFailed rfl (payloadCrypt_frame ..).seOnly fun _ _ hr => orSeFailed hr (foptsMaybeCrypt_frame ..).seOnly
    fun _ _ hr => orSeFailed hr (uplinkMic_frame ..).seOnly fun _ _ _ => done ⟨rfl, Nat.le_of_not_lt hge⟩

/-- What `SEC.DOWNLINK` commits: its candidate, above the stream's counter where the stream has one. -/
def DownCommitted (k : BitVec 3) (cand : Word) (r : Regs) (t : State) : Prop :=
  k.toNat ≤ 5
  ∧ t.r = { setLastFcnt r k cand with fcntValid := setValid r.fcntValid k, lastDownFcnt := cand, adrAckCnt := 0 }
  ∧ (streamValid r.fcntValid k = true → (lastFcnt r k).toNat < cand.toNat)

theorem stream_le_of_downlinkKindOk {ak ck : BitVec 3} {mc : Vector McEntry 4} (h : downlinkKindOk ak ck mc = true) :
    ck.toNat ≤ 5 := by
  unfold downlinkKindOk at h
  split at h
  · cases h
  · omega

theorem secDownlink (ak : BitVec 3) (address : Word) (ck : BitVec 3) (cand : Word) (s : State) :
    Commits s.r (DownCommitted ck cand s.r) (execSecDownlink ak address ck cand s) := by
  refine ite (fun _ => raise rfl) fun hkind => ite (fun _ => raise rfl) fun _ => withDataFrame rfl fun _ _ =>
    ite (fun _ => raise rfl) fun _ => ite (fun _ => raise rfl) fun _ => ite (fun _ => raise rfl) fun hne =>
    ite (fun _ => raise rfl) fun hge => orSeFailed rfl (downlinkMic_frame ..).seOnly fun _ _ hr =>
    ite (fun _ => raise hr) fun _ => orSeFailed hr (payloadCrypt_frame ..).seOnly fun _ _ hr =>
    orSeFailed hr (foptsMaybeCrypt_frame ..).seOnly fun _ u hr => done ⟨?_, ?_, fun hvalid => ?_⟩
  · exact stream_le_of_downlinkKindOk (by simpa using hkind)
  · rw [← hr]
    rfl
  · have h1 : cand ≠ lastFcnt s.r ck := fun h => hne ⟨hvalid, h⟩
    have h2 : ¬ cand.toNat < (lastFcnt s.r ck).toNat := fun h => hge ⟨hvalid, h⟩
    bv_omega

theorem applyCflist_r (l : Option (List Byte)) (s : State) : (applyCflist l s).r = s.r := by
  cases l <;> rfl

theorem secJoinacc (q : Byte) (e : Eui) (n : Half) (s : State) :
    Commits s.r (fun t => t.r.adrAckCnt = 0) (execSecJoinacc q e n s) :=
  ite (fun _ => raise rfl) fun _ => ite (fun _ => raise rfl) fun _ => ite (fun _ => raise rfl) fun _ =>
    orFault fun _ => decryptBlocks (fun _ _ hr => orSeFailed hr (joinacceptMic_frame ..).seOnly fun _ _ hr =>
      ite (fun _ => raise hr) fun _ => orSeFailed hr (deriveAll_frame ..) fun _ _ _ =>
        done (congrArg Regs.adrAckCnt (applyCflist_r _ _))) _ _ _ _ rfl

end Commits

/-! ### The counters -/

/-- `FAIL_FCNT_SMALLER` is the answer to a smaller operand only. -/
theorem secUplink_smaller (c : Word) (dr ch cap : Byte) (s : State) :
    Post (fun t => t.status = .failFcntSmaller → c.toNat < s.r.fcntUp.toNat) (execSecUplink c dr ch cap s) :=
  .ite (fun _ => .raise nofun) fun _ => .ite (fun _ => .raise nofun) fun _ => .ite (fun hlt => .raise fun _ => hlt)
  fun _ =>
    .ite (fun _ => .raise nofun) fun _ => .ite (fun _ => .raise nofun) fun _ => .orFault fun _ _ =>
    .orSeFailed nofun fun _ _ => .orSeFailed nofun fun _ _ => .orSeFailed nofun fun _ _ => .done nofun

/-- Settles O27: of the instructions that write `R.FCNT_UP` only `SEC.UPLINK` is not excepted, and a `SEC.JOINACC` that
does not answer `OK` leaves the registers. -/
theorem uplinkCounterLaw : Obligations.UplinkCounterLaw := by
  intro i s t ht
  refine ⟨fun hinit hreset hset hjoin => ?mono, ?commit⟩
  case mono =>
    cases hw : decide (Aspect.uplink ∈ writes i) with
    | false => exact (congrArg BitVec.toNat (exec_same ht .uplink hw)).ge
    | true =>
      cases i with
      | sysInit => exact absurd rfl hinit
      | fcntReset a b => exact absurd rfl (hreset a b)
      | mibSet a b => exact absurd rfl (hset a b)
      | secUplink c dr ch cap =>
        obtain ⟨hok, hfail⟩ := Commits.secUplink c dr ch cap s t ht
        by_cases hst : t.status = .ok
        · obtain ⟨hc, hle⟩ := hok hst
          rwa [hc]
        · rw [hfail hst]
      | secJoinacc q e n =>
        rw [(Commits.secJoinacc q e n s t ht).2 (hjoin ⟨q, e, n, rfl⟩)]
      | _ => exact nomatch hw
  case commit =>
    rintro c dr ch cap rfl
    obtain ⟨hok, hfail⟩ := Commits.secUplink c dr ch cap s t ht
    refine ⟨fun h => (hok h).1, fun h => by rw [hfail h], secUplink_smaller c dr ch cap s t ht,
      fun hj h1 hcap hlt => ?_⟩
    rw [SecureUplink.secUplink_smaller dr ch hj (Serialize.capOk_iff.2 ⟨h1, hcap⟩) hlt] at ht
    cases ht
    rfl

/-- Settles O31: what the two commands commit, and `failedCommandChangesNothing`. -/
theorem adrCounterReturnsToZero : Obligations.AdrCounterReturnsToZero := by
  intro i s t ht
  refine ⟨?zero, fun hport hfail => ?kept⟩
  case zero =>
    rintro (⟨ak, a, ck, c, rfl⟩ | ⟨q, e, n, rfl⟩) hok
    · obtain ⟨-, hr, -⟩ := (Commits.secDownlink ak a ck c s t ht).1 hok
      rw [hr]
    · exact (Commits.secJoinacc q e n s t ht).1 hok
  case kept =>
    have hsame := (Exceptions.failedCommandChangesNothing i s t hport ht hfail).1
    have hcnt := congrArg (fun u : State => u.r.adrAckCnt) hsame
    exact hcnt

theorem lastFcnt_setLastFcnt_same (r : Regs) (k : BitVec 3) (v : Word) : lastFcnt (setLastFcnt r k v) k = v := by
  unfold lastFcnt setLastFcnt
  split
  · rfl
  · split
    · rfl
    · exact at4_set4_same _ _ _

/-- The streams are apart. -/
theorem lastFcnt_setLastFcnt_other (r : Regs) {k j : BitVec 3} (v : Word) (hk : k.toNat ≤ 5) (hj : j.toNat ≤ 5)
    (hne : j ≠ k) : lastFcnt (setLastFcnt r k v) j = lastFcnt r j := by
  have hentry : ∀ k j : BitVec 3, k.toNat ≤ 5 → j.toNat ≤ 5 → j ≠ k → k ≠ 0 → k ≠ 1 → j ≠ 0 → j ≠ 1 →
      streamEntry j ≠ streamEntry k := by decide
  unfold lastFcnt setLastFcnt
  by_cases hj0 : j = 0
  · subst hj0
    rw [if_neg hne.symm, if_pos rfl, if_pos rfl]
    split <;> rfl
  · rw [if_neg hj0, if_neg hj0]
    by_cases hj1 : j = 1
    · subst hj1
      rw [if_pos rfl, if_pos rfl, if_neg hne.symm]
      split <;> rfl
    · rw [if_neg hj1, if_neg hj1]
      split
      · rfl
      · split
        · rfl
        · next hk0 hk1 => exact at4_set4_other _ _ (hentry k j hk hj hne hk0 hk1 hj0 hj1)

theorem streamValid_setValid (v : BitVec 6) {k j : BitVec 3} (hj : j.toNat ≤ 5) :
    streamValid (setValid v k) j = (streamValid v j || decide (j = k)) := by
  have hbit : ∀ k j : BitVec 3, j.toNat ≤ 5 → (1#6 <<< k.toNat).getLsbD j.toNat = decide (j = k) := by decide
  rw [streamValid, setValid, BitVec.getLsbD_or, hbit k j hj]
  rfl

/-- Settles O30: of the instructions that write the streams only `SEC.DOWNLINK` is not excepted. -/
theorem downlinkCounterLaw : Obligations.DownlinkCounterLaw := by
  intro i s t k hk ht hinit hreset hset hjoin hadd hremove
  have hkept : Aspect.streams.same s t →
      lastFcnt t.r k = lastFcnt s.r k ∧ streamValid t.r.fcntValid k = streamValid s.r.fcntValid k := fun h => by
    simp only [Aspect.same, Prod.mk.injEq] at h
    obtain ⟨hn, ha, hmc, hv⟩ := h
    exact ⟨by rw [lastFcnt, lastFcnt, hn, ha, hmc], by rw [hv]⟩
  cases hw : decide (Aspect.streams ∈ writes i) with
  | false => exact .inl (hkept (exec_same ht .streams hw))
  | true =>
    cases i with
    | sysInit => exact absurd rfl hinit
    | fcntReset a b => exact absurd rfl (hreset a b)
    | mibSet a b => exact absurd rfl (hset a b)
    | mcAdd a b c d e f => exact absurd rfl (hadd a b c d e f)
    | mcRemove a b => exact absurd rfl (hremove a b)
    | secJoinacc q e n =>
      rw [(Commits.secJoinacc q e n s t ht).2 (hjoin ⟨q, e, n, rfl⟩)]
      exact .inl ⟨rfl, rfl⟩
    | secDownlink ak a ck c =>
      obtain ⟨hok, hfail⟩ := Commits.secDownlink ak a ck c s t ht
      by_cases hst : t.status = .ok
      · obtain ⟨hck, hr, hlt⟩ := hok hst
        have hlast : lastFcnt t.r k = lastFcnt (setLastFcnt s.r ck c) k := by rw [hr]; rfl
        have hvalid : streamValid t.r.fcntValid k = (streamValid s.r.fcntValid k || decide (k = ck)) := by
          rw [hr]
          exact streamValid_setValid _ hk
        by_cases hne : k = ck
        · subst hne
          rw [lastFcnt_setLastFcnt_same] at hlast
          refine .inr ⟨hst, by simp [hvalid], ⟨ak, a, c, rfl, hlast⟩, ?_⟩
          rw [hlast]
          cases hv : streamValid s.r.fcntValid k with
          | false => exact .inl rfl
          | true => exact .inr (hlt hv)
        · rw [lastFcnt_setLastFcnt_other _ _ hck hk hne] at hlast
          exact .inl ⟨hlast, by simp [hvalid, hne]⟩
      · rw [hfail hst]
        exact .inl ⟨rfl, rfl⟩
    | _ => exact nomatch hw

end Sys2Proof.Proofs.InstructionLaws
end

section
/-! The core invariant (10_state.md R15, R30, 43_dutycycle_adr.md R185): how an invariant of `exec` and of the HOST's
stores passes to `step`, and the four parts of the core invariant, each by the few instructions that write it. -/

namespace Sys2Proof.Proofs.CoreInvariant

open Sys2Proof Sys2Proof.Machine
open Sys2Proof.Proofs.Footprint

/-! ### From instructions to steps -/

/-- A direct access of the HOST writes the memory, or what is no aspect. -/
theorem hostWrite_same {a : HostAccess} {s t : State} (ht : hostWrite a s = .next t) : Same [.memory] s t := by
  cases a with
  | buffer b off bytes =>
    have hkeeps : Keeps [.memory] s (hostWrite (.buffer b off bytes) s) :=
      Keeps.ite Post.fault (Post.next (Same.write s b off bytes))
    exact hkeeps t ht
  | txLen | rxLen | key =>
    cases ht
    exact ⟨fun x _ => by cases x <;> rfl⟩
  | _ =>
    cases ht
    exact Same.setFd ..

/-- Bytes that are no command change no aspect. -/
theorem answerReject_same {e : Reject} {s t : State} (ht : answerReject e s = .next t) : Same [] s t := by
  cases e with
  | notALayout => cases ht
  | illegalCommand | missingOperand | operandRange => exact Keeps.raise t ht

/-- What taking an item off the port, an instruction, a store of the HOST and an answer keep, every step keeps. -/
theorem step_keeps {I : State → Prop} (hport : ∀ s port, I s → I { s with port := port })
    (hexec : ∀ i s t, s.par.Ok → I s → exec i s = .next t → I t)
    (hhost : ∀ a s t, I s → hostWrite a s = .next t → I t)
    (hreject : ∀ e s t, I s → answerReject e s = .next t → I t) {s t : State} (hs : I s) (ht : step s = .next t) :
    I t := by
  unfold step at ht
  split at ht
  · cases ht
  · next hpar =>
    have hpar : s.par.Ok := not_not.1 hpar
    split at ht
    · cases ht
      exact hs
    · exact hhost _ _ _ (hport s _ hs) ht
    · split at ht
      · exact hexec _ _ _ (by exact hpar) (hport s _ hs) ht
      · exact hreject _ _ _ (hport s _ hs) ht

/-! ### The buffers -/

/-- The buffers are in canonical form. -/
def MemOk (s : State) : Prop := s.mem.wf s.par

theorem MemOk.of_same {W : List Aspect} {s t : State} (h : Same W s t) (hs : MemOk s)
    (henv : Aspect.env ∉ W := by decide) (hmem : Aspect.memory ∉ W := by decide) : MemOk t := by
  have hpar : t.par = s.par := congrArg Prod.fst (h.same .env henv)
  have hmem : t.mem = s.mem := h.same .memory hmem
  rwa [MemOk, hpar, hmem]

theorem MemOk.congr {s t : State} (hs : MemOk s) (hmem : t.mem = s.mem := by rfl) (hpar : t.par = s.par := by rfl) :
    MemOk t := by
  rwa [MemOk, hmem, hpar]

theorem MemOk.write {s : State} (hs : MemOk s) {b : Buf} {off : Nat} {bs : List Byte}
    (hcap : off + bs.length ≤ capacity s.par b) : MemOk (s.write b off bs) :=
  wf_write hs b off bs hcap

theorem MemOk.reply {s : State} (hs : MemOk s) {st : Status} {res : List Byte} : MemOk (s.reply st res) := hs

theorem MemOk.of_seOnly {s t : State} (h : SeOnly s t) (hs : MemOk s) : MemOk t :=
  hs.of_same (Same.of_seOnly (W := []) h)

theorem MemOk.putTx {s : State} (hs : MemOk s) {msg : List Byte} (hcap : msg.length ≤ s.par.phyMax) :
    MemOk (s.putTx msg) :=
  hs.write (b := .tx) (by simpa [capacity] using hcap)

theorem MemOk.setDataFrame {s : State} (hs : MemOk s) {f : DataFrame} (hopts : f.fopts.length ≤ 15)
    (hpld : f.payload.length ≤ s.par.phyMax) : MemOk (s.setDataFrame f) :=
  have hfopts : MemOk (s.write .fopts 0 f.fopts) := hs.write (by simpa [capacity] using hopts)
  hfopts.write (b := .pld) (by simpa [capacity] using hpld)

theorem MemOk.setJoinAccept {s : State} (hs : MemOk s) (b : List Byte) : MemOk (s.setJoinAccept (.ofBytes b)) := by
  refine hs.write (b := .cflist) ?_
  have hlen : ((JoinAccept.ofBytes b).cflist.getD []).length ≤ 16 := by
    rw [JoinAccept.ofBytes]
    split
    · exact List.length_take_le ..
    · exact Nat.zero_le _
  simpa [capacity] using hlen

theorem payload_length_ofBytes (b : List Byte) : (DataFrame.ofBytes b).payload.length ≤ b.length := by
  simp only [DataFrame.ofBytes, slice, List.length_take, List.length_drop]
  omega

theorem capOk_le {par : Params} {cap : Byte} (h : ¬ (!capOk par cap) = true) : cap.toNat ≤ par.phyMax := by
  have hcap : capOk par cap = true := by simpa using h
  exact (Serialize.capOk_iff.1 hcap).2

/-! ### The lengths of what the Secure Element gives -/

theorem seThen_some {α β : Type} {r : Option α × State} {k : α → State → Option β × State} {b : β}
    (h : (seThen r k).1 = some b) : ∃ a, r.1 = some a ∧ (k a r.2).1 = some b := by
  obtain ⟨_ | a, s⟩ := r
  · cases h
  · exact ⟨a, rfl, h⟩

theorem payloadCrypt_length {slot : KeySlot} {down : Bool} {addr fcnt : Word} {x ct : List Byte} {s : State}
    (h : (payloadCrypt slot down addr fcnt x s).1 = some ct) : ct.length ≤ x.length := by
  obtain ⟨ks, -, hct⟩ := seThen_some h
  cases hct
  rw [xorBytes, List.length_zipWith]
  exact Nat.min_le_left ..

theorem foptsMaybeCrypt_length {crypt down : Bool} {addr fcnt : Word} {f fo : List Byte} {s : State}
    (h : (foptsMaybeCrypt crypt down addr fcnt f s).1 = some fo) : fo.length ≤ f.length := by
  unfold foptsMaybeCrypt at h
  split at h
  · obtain ⟨ks, -, hfo⟩ := seThen_some h
    cases hfo
    rw [xorBytes, List.length_zipWith]
    exact Nat.min_le_left ..
  · cases h
    exact Nat.le_refl _

theorem seEcb_length {block out : List Byte} {slot : KeySlot} {s : State} (h : (seEcb block slot s).1 = some out) :
    out.length = 16 := by
  obtain ⟨k, -, rfl⟩ := seEcb_some (s' := (seEcb block slot s).2) (Prod.ext h rfl)
  exact seBlock_length ..

theorem uplinkMsg_length {d : FrameDesc} {fo ct : List Byte} (counter mic : Word) (hfo : fo.length ≤ foptsLen d.fctrl)
    (hct : ct.length ≤ d.pldLen.toNat) : (uplinkMsg d counter fo ct ++ le32 mic).length ≤ d.dataLen := by
  have hlen := dataFrame_length { d.dataFrame fo ct with fcnt := counter.setWidth 16, mic := mic }
  have hport : d.port.toList.length = if d.fportPresent then 1 else 0 := by
    rw [Serialize.port_toList]
    split <;> rfl
  calc (uplinkMsg d counter fo ct ++ le32 mic).length
      = 12 + fo.length + d.port.toList.length + ct.length := hlen
    _ ≤ d.dataLen := by
      rw [hport, FrameDesc.dataLen]
      omega

/-! ### The instructions that write the buffers -/

theorem memOk_sysInit (s : State) : Post MemOk (exec .sysInit s) := by
  rw [SystemState.sysInit_eq]
  exact .next (wf_reset s.par)

theorem memOk_serialize {s : State} (hs : MemOk s) {cap : Byte} (hcap : cap.toNat ≤ s.par.phyMax) (msg : List Byte) :
    Post MemOk (serialize cap msg s) :=
  .ite (fun _ => .raise hs.reply) fun hfits => .done (hs.putTx (by omega)).reply

theorem memOk_serJoinreq {s : State} (hs : MemOk s) (cap : Byte) : Post MemOk (execSerJoinreq cap s) :=
  .ite (fun _ => .raise hs.reply) fun hcap => memOk_serialize hs (capOk_le hcap) _

theorem memOk_serRejoin {s : State} (hs : MemOk s) (cap : Byte) : Post MemOk (execSerRejoin cap s) :=
  .ite (fun _ => .raise hs.reply) fun hcap => .ite (fun _ => memOk_serialize hs (capOk_le hcap) _) fun _ =>
    .ite (fun _ => memOk_serialize hs (capOk_le hcap) _) fun _ => .raise hs.reply

theorem memOk_serJoinacc {s : State} (hs : MemOk s) (cap : Byte) : Post MemOk (execSerJoinacc cap s) :=
  .ite (fun _ => .raise hs.reply) fun hcap => .ite (fun _ => .raise hs.reply) fun _ =>
    .ite (fun _ => memOk_serialize hs (capOk_le hcap) _) fun _ => memOk_serialize hs (capOk_le hcap) _

theorem memOk_serData {s : State} (hs : MemOk s) (cap : Byte) : Post MemOk (execSerData cap s) :=
  .ite (fun _ => .raise hs.reply) fun hcap => .ite (fun _ => .raise hs.reply) fun _ =>
    .ite (fun _ => .raise hs.reply) fun _ => .orFault fun _ _ => memOk_serialize hs (capOk_le hcap) _

theorem memOk_parseJoinacc {s : State} (hs : MemOk s) : Post MemOk (execParseJoinacc s) :=
  .ite (fun _ => .raise hs.reply) fun _ => .orFault fun b _ => .done (hs.setJoinAccept b).reply

theorem memOk_parseData {s : State} (hs : MemOk s) : Post MemOk (execParseData s) := by
  refine Post.withDataFrame hs.reply fun b hb hfit hcap => .done ?_
  have hlen : b.length = s.rxLen.toNat := FrameCodec.length_of_read hb
  have hpld := payload_length_ofBytes b
  exact (hs.setDataFrame (SecureDownlink.fopts_length_le (hlen ▸ hfit)) (by omega)).reply

theorem memOk_framePlaceCmds {s : State} (hs : MemOk s) (cmds : List Byte) (maxPld : Byte) :
    Post MemOk (execFramePlaceCmds cmds maxPld s) := by
  refine .ite (fun _ => .done hs) fun _ => .ite (fun hshort => .done ?_) fun _ => .ite (fun _ => .raise hs.reply)
    fun hfits => .next ?_
  · exact hs.write (b := .fopts) (by simpa [capacity] using hshort)
  · have hcap : cmds.length ≤ s.par.phyMax := by omega
    exact hs.write (b := .pld) (by simpa [capacity] using hcap)

theorem memOk_storeFrame {s : State} (hs : MemOk s) (bytes : List Byte) : Post MemOk (storeFrame bytes s) :=
  .ite (fun _ => .fault) fun hfits => .next (hs.write (b := .rx) (by simpa [capacity] using hfits))

theorem memOk_secUplink {s : State} (hs : MemOk s) (counter : Word) (dr ch cap : Byte) :
    Post MemOk (execSecUplink counter dr ch cap s) := by
  refine .ite (fun _ => .raise hs.reply) fun _ => .ite (fun _ => .raise hs.reply) fun hcap =>
    .ite (fun _ => .raise hs.reply) fun _ => .ite (fun _ => .raise hs.reply) fun _ =>
    .ite (fun _ => .raise hs.reply) fun hfits => .orFault fun pl hpl => ?_
  have hcalls := payloadCrypt_frame (uplinkPayloadSlot s.fd.fport) false s.fd.devAddr counter pl s
  refine .orSeFailed (hs.of_seOnly hcalls.seOnly).reply fun ct hct => ?_
  generalize (payloadCrypt (uplinkPayloadSlot s.fd.fport) false s.fd.devAddr counter pl s).2 = s1 at hcalls ⊢
  have hcalls1 := hcalls.trans (foptsMaybeCrypt_frame (s1.r.lwVariant == .v11) false s1.fd.devAddr counter
    (s1.fdArray .fopts (foptsLen s1.fd.fctrl)) s1)
  refine .orSeFailed (hs.of_seOnly hcalls1.seOnly).reply fun fo hfo => ?_
  have hfo := foptsMaybeCrypt_length hfo
  generalize (foptsMaybeCrypt (s1.r.lwVariant == .v11) false s1.fd.devAddr counter
    (s1.fdArray .fopts (foptsLen s1.fd.fctrl)) s1).2 = s2 at hcalls1 ⊢
  have hcalls2 := hcalls1.trans (uplinkMic_frame s2.r.lwVariant s2.fd.devAddr counter (uplinkMsg s2.fd counter fo ct)
    (uplinkConf s2) dr ch s2)
  refine .orSeFailed (hs.of_seOnly hcalls2.seOnly).reply fun mic _ => .done ?_
  generalize (uplinkMic s2.r.lwVariant s2.fd.devAddr counter (uplinkMsg s2.fd counter fo ct)
    (uplinkConf s2) dr ch s2).2 = s3 at hcalls2 ⊢
  have hfd1 : s1.fd = s.fd := (congrArg State.fd hcalls).symm
  have hfd2 : s2.fd = s.fd := (congrArg State.fd hcalls1).symm
  have hpar : s3.par = s.par := (congrArg State.par hcalls2).symm
  have hlen : (uplinkMsg s2.fd counter fo ct ++ le32 mic).length ≤ s.fd.dataLen := by
    rw [hfd2]
    refine uplinkMsg_length counter mic ?_ ?_
    · rwa [fdArray_length, hfd1] at hfo
    · rw [← FrameCodec.length_of_read hpl]
      exact payloadCrypt_length hct
  have hphy := capOk_le hcap
  have hput : MemOk (s3.putTx (uplinkMsg s2.fd counter fo ct ++ le32 mic)) :=
    (hs.of_seOnly hcalls2.seOnly).putTx (by rw [hpar]; omega)
  exact hput.congr

theorem memOk_commitRequest {s : State} (hs : MemOk s) {msg : List Byte} {mic : Word}
    (hcap : msg.length + 4 ≤ s.par.phyMax) : MemOk (commitRequest msg mic s) :=
  (hs.putTx (msg := msg ++ le32 mic) (by simpa using hcap)).congr

/-- A request whose signed part is read from the descriptor. -/
theorem memOk_request {s : State} (hs : MemOk s) {body : FrameDesc → List Byte} {n : Nat} (slot : KeySlot)
    (hlen : ∀ d, (body d).length = n) (hcap : n + 4 ≤ s.par.phyMax) :
    Post MemOk (orSeFailed (seCmac none (body s.fd) slot s) fun mic s =>
      done [] (commitRequest (body s.fd) mic s)) := by
  have hcalls := seCmac_frame none (body s.fd) slot s
  have hmem := hs.of_seOnly hcalls.seOnly
  have hpar : (seCmac none (body s.fd) slot s).2.par = s.par := (congrArg State.par hcalls).symm
  refine .orSeFailed hmem.reply fun mic _ => .done ?_
  generalize (seCmac none (body s.fd) slot s).2 = s1 at hmem hpar ⊢
  have hcommit : MemOk (commitRequest (body s1.fd) mic s1) := memOk_commitRequest hmem (by rwa [hlen, hpar])
  exact hcommit.congr

theorem memOk_secJoinreq {s : State} (hs : MemOk s) (cap : Byte) : Post MemOk (execSecJoinreq cap s) := by
  refine .ite (fun _ => .raise hs.reply) fun hcap => .ite (fun _ => .raise hs.reply) fun hfits => ?_
  exact memOk_request hs (body := fun d => d.joinRequest.body) .nwkKey (fun d => by simp [JoinRequest.body])
    ((Nat.le_of_not_lt hfits).trans (capOk_le hcap))

theorem memOk_secRejoin {s : State} (hs : MemOk s) (cap : Byte) : Post MemOk (execSecRejoin cap s) := by
  refine .ite (fun _ => .raise hs.reply) fun hcap => .ite (fun _ => .raise hs.reply) fun _ =>
    .ite (fun _ => .ite (fun _ => .raise hs.reply) fun hfits => ?type1) fun _ =>
    .ite (fun _ => .raise hs.reply) fun _ => .ite (fun _ => .raise hs.reply) fun hfits => ?type02
  case type1 =>
    exact memOk_request hs (body := fun d => d.rejoin1.body) .jSIntKey (fun d => by simp [Rejoin1.body])
      ((Nat.le_of_not_lt hfits).trans (capOk_le hcap))
  case type02 =>
    exact memOk_request hs (body := fun d => d.rejoin02.body) .sNwkSIntKey (fun d => by simp [Rejoin02.body])
      ((Nat.le_of_not_lt hfits).trans (capOk_le hcap))

theorem memOk_secDownlink {s : State} (hs : MemOk s) (ak : BitVec 3) (address : Word) (ck : BitVec 3) (cand : Word) :
    Post MemOk (execSecDownlink ak address ck cand s) := by
  refine .ite (fun _ => .raise hs.reply) fun _ => .ite (fun _ => .raise hs.reply) fun _ =>
    .withDataFrame hs.reply fun b hb hfit hcap => ?_
  have hlen : b.length = s.rxLen.toNat := FrameCodec.length_of_read hb
  have hopts := SecureDownlink.fopts_length_le (b := b) (hlen ▸ hfit)
  have hpld := payload_length_ofBytes b
  generalize DataFrame.ofBytes b = f at hopts hpld ⊢
  refine .ite (fun _ => .raise hs.reply) fun _ => .ite (fun _ => .raise hs.reply) fun _ =>
    .ite (fun _ => .raise hs.reply) fun _ => .ite (fun _ => .raise hs.reply) fun _ => ?_
  have hcalls := downlinkMic_frame address cand (b.take (s.rxLen.toNat - 4))
    (downlinkConf (s.r.lwVariant == .v11 && ak == 0) f.fctrl s.r) (downlinkMicSlot (addrEntry ak)) s
  refine .orSeFailed (hs.of_seOnly hcalls.seOnly).reply fun mic _ => ?_
  generalize (downlinkMic address cand (b.take (s.rxLen.toNat - 4))
    (downlinkConf (s.r.lwVariant == .v11 && ak == 0) f.fctrl s.r) (downlinkMicSlot (addrEntry ak)) s).2 = s1 at hcalls ⊢
  refine .ite (fun _ => .raise (hs.of_seOnly hcalls.seOnly).reply) fun _ => ?_
  have hcalls1 := hcalls.trans (payloadCrypt_frame (downlinkPayloadSlot (addrEntry ak) (f.fport == some 0)) true
    address cand f.payload s1)
  refine .orSeFailed (hs.of_seOnly hcalls1.seOnly).reply fun pt hpt => ?_
  have hpt := payloadCrypt_length hpt
  generalize (payloadCrypt (downlinkPayloadSlot (addrEntry ak) (f.fport == some 0)) true
    address cand f.payload s1).2 = s2 at hcalls1 ⊢
  have hcalls2 := hcalls1.trans (foptsMaybeCrypt_frame (s.r.lwVariant == .v11 && ak == 0) true address cand
    f.fopts s2)
  refine .orSeFailed (hs.of_seOnly hcalls2.seOnly).reply fun fo hfo => .done ?_
  have hfo := foptsMaybeCrypt_length hfo
  generalize (foptsMaybeCrypt (s.r.lwVariant == .v11 && ak == 0) true address cand f.fopts s2).2 = s3 at hcalls2 ⊢
  have hpar : s3.par = s.par := (congrArg State.par hcalls2).symm
  exact (hs.of_seOnly hcalls2.seOnly).setDataFrame (f := { f with fopts := fo, payload := pt }) (hfo.trans hopts)
    (by rw [hpar]; exact (hpt.trans hpld).trans (hlen ▸ hcap))

/-- After the blocks of a join-accept: each adds 16 bytes, or a call has failed. -/
theorem post_decryptBlocks {Q : State → Prop} {s : State} {k : List Byte → State → Out} {slot : KeySlot} {n i : Nat}
    {pl : List Byte} (hfail : ∀ s', SeOnly s s' → Q (s'.reply .errSeFailed []))
    (hk : ∀ pl' s', pl'.length = pl.length + 16 * n → SeOnly s s' → Post Q (k pl' s')) :
    Post Q (decryptBlocks slot n i pl s k) := by
  induction n generalizing i pl s with
  | zero => exact hk pl s rfl (.refl s)
  | succ n ih =>
    refine .orFault fun c _ => ?_
    have hcall := (seEcb_frame c slot s).seOnly
    refine .orSeFailed (hfail _ hcall) fun out hout => ih (fun s' h => hfail s' (hcall.trans h)) fun pl' s' hlen h => ?_
    refine hk pl' s' ?_ (hcall.trans h)
    rw [hlen, List.length_append, seEcb_length hout]
    omega

theorem memOk_applyCflist {s : State} (hs : MemOk s) (l : Option (List Byte)) : MemOk (applyCflist l s) :=
  hs.of_same (Keeps.same_applyCflist (W := []) l s)

theorem memOk_secJoinacc {s : State} (hs : MemOk s) (q : Byte) (e : Eui) (dn : Half) :
    Post MemOk (execSecJoinacc q e dn s) := by
  refine .ite (fun _ => .raise hs.reply) fun _ => .ite (fun _ => .raise hs.reply) fun _ =>
    .ite (fun _ => .raise hs.reply) fun hlen => .orFault fun h _ =>
    post_decryptBlocks (fun s' hse => (hs.of_seOnly hse).reply) fun pl s1 hpl hse => ?_
  have hcap : pl.length ≤ s.par.phyMax := by
    obtain ⟨h1733, hends⟩ := not_or.1 hlen
    have hends : s.rxLen.toNat ≤ s.par.phyMax := by simpa [State.rxEnds] using hends
    have h1733 : s.rxLen.toNat = 17 ∨ s.rxLen.toNat = 33 := by bv_omega
    simp only [List.length_singleton] at hpl
    omega
  have hse1 := hse.trans (joinacceptMic_frame (joinVariant s1.r (JoinAccept.ofBytes pl).dlSettings) q e dn
    (pl.take (s1.rxLen.toNat - 4)) s1).seOnly
  refine .orSeFailed (hs.of_seOnly hse1).reply fun mic _ => .ite (fun _ => .raise (hs.of_seOnly hse1).reply) fun _ => ?_
  have hse2 := hse1.trans (deriveAll_frame (sessionSteps (joinVariant s1.r (JoinAccept.ofBytes pl).dlSettings)
    (JoinAccept.ofBytes pl).joinNonce (JoinAccept.ofBytes pl).netId e dn) _)
  refine .orSeFailed (hs.of_seOnly hse2).reply fun _ _ => .done ?_
  have hmem := hs.of_seOnly hse2
  have hpar := (congrArg State.par hse2).symm
  generalize Prod.snd _ = s3 at hmem hpar ⊢
  have hrx : MemOk (s3.write .rx 0 pl) := hmem.write (by simpa [capacity, show s3.par = s.par from hpar] using hcap)
  have hcommit : MemOk (commitJoin (joinVariant s1.r (JoinAccept.ofBytes pl).dlSettings) pl (.ofBytes pl) s3) :=
    hrx.setJoinAccept pl
  exact (memOk_applyCflist hcommit _).reply

theorem memOk_exec {i : Instr} {s t : State} (hs : MemOk s) (ht : exec i s = .next t) : MemOk t := by
  cases hw : decide (Aspect.memory ∈ writes i) with
  | false =>
    have hmem : t.mem = s.mem := exec_same ht .memory hw
    have hpar : t.par = s.par := congrArg Prod.fst (exec_same ht .env (by cases i <;> rfl))
    rwa [MemOk, hmem, hpar]
  | true =>
    cases i with
    | sysInit => exact memOk_sysInit s t ht
    | serJoinreq cap => exact memOk_serJoinreq hs cap t ht
    | serRejoin cap => exact memOk_serRejoin hs cap t ht
    | serJoinacc cap => exact memOk_serJoinacc hs cap t ht
    | serData cap => exact memOk_serData hs cap t ht
    | parseJoinacc => exact memOk_parseJoinacc hs t ht
    | parseData => exact memOk_parseData hs t ht
    | framePlaceCmds cmds maxPld => exact memOk_framePlaceCmds hs cmds maxPld t ht
    | secUplink c dr ch cap => exact memOk_secUplink hs c dr ch cap t ht
    | secDownlink ak a ck c => exact memOk_secDownlink hs ak a ck c t ht
    | secJoinreq cap => exact memOk_secJoinreq hs cap t ht
    | secRejoin cap => exact memOk_secRejoin hs cap t ht
    | secJoinacc q e n => exact memOk_secJoinacc hs q e n t ht
    | frameJoinRequest | frameRejoin02 | frameRejoin1 | frameJoinAccept | frameData =>
      exact memOk_storeFrame hs _ t ht
    | _ => exact nomatch hw

theorem memOk_hostWrite {a : HostAccess} {s t : State} (hs : MemOk s) (ht : hostWrite a s = .next t) : MemOk t := by
  cases a with
  | buffer b off bytes =>
    have hpost : Post MemOk (hostWrite (.buffer b off bytes) s) :=
      .ite (fun _ => .fault) fun hfits => .next (hs.write (Nat.le_of_not_lt hfits))
    exact hpost t ht
  | _ =>
    cases ht
    exact hs

/-! ### The acknowledgment retries -/

/-- The retries are within their bounds. -/
def AckOk (s : State) : Prop :=
  1 ≤ s.r.ackRetries.toNat ∧ s.r.ackRetries.toNat ≤ ackRetryCap ∧ s.r.ackRetryCnt.toNat ≤ s.r.ackRetries.toNat

theorem AckOk.of_same {s t : State} (h : Aspect.ack.same s t) (hs : AckOk s) : AckOk t := by
  simp only [Aspect.same, Prod.mk.injEq] at h
  obtain ⟨hretries, hcnt⟩ := h
  rwa [AckOk, hretries, hcnt]

theorem AckOk.closed {s t : State} (hs : AckOk s) (hretries : t.r.ackRetries = s.r.ackRetries)
    (hcnt : t.r.ackRetryCnt = 0) : AckOk t := by
  obtain ⟨h1, h8, -⟩ := hs
  rw [AckOk, hretries, hcnt]
  exact ⟨h1, h8, Nat.zero_le _⟩

theorem AckOk.closeExchange {s : State} (hs : AckOk s) : AckOk (closeExchange s) := hs.closed rfl rfl

theorem ackOk_sysInit (s : State) : Post AckOk (exec .sysInit s) := by
  have hreset : AckOk s.reinit := ⟨Nat.le_refl 1, show 1 ≤ 8 by decide, Nat.zero_le 1⟩
  exact .done (hreset.of_same rfl)

theorem ackOk_sysSetClass {s : State} (hs : AckOk s) (cls : BitVec 2) (now : Word) :
    Post AckOk (execSysSetClass cls now s) := by
  have hclose := hs.closeExchange
  unfold execSysSetClass
  split
  · exact .raise hs
  · next target _ =>
    cases s.r.deviceClass <;> cases target
    case a.b =>
      exact .ite (fun _ => .raise hs) fun _ =>
        .done (hclose.of_same ((Keeps.same_classAToB now _).same .ack (by decide)))
    case a.c =>
      exact .ite (fun _ => .raise hs) fun _ => .done (hclose.of_same ((Keeps.same_classAToC _).same .ack (by decide)))
    case b.a => exact .done (hclose.of_same ((Keeps.same_haltTracker _).same .ack (by decide)))
    case c.a => exact .done (hclose.of_same ((Keeps.same_classCToA _).same .ack (by decide)))
    case b.c | c.b => exact .raise hs
    case a.a | b.b | c.c => exact .done hs

theorem retryCeiling_bounds (retries : Byte) :
    1 ≤ (retryCeiling retries).toNat ∧ (retryCeiling retries).toNat ≤ ackRetryCap := by
  have hceil : min (max retries.toNat 1) ackRetryCap < 2 ^ 4 := Nat.lt_of_le_of_lt (Nat.min_le_right ..) (by decide)
  rw [retryCeiling, BitVec.toNat_ofNat, Nat.mod_eq_of_lt hceil]
  exact ⟨Nat.le_min.2 ⟨Nat.le_max_right .., by decide⟩, Nat.min_le_right ..⟩

theorem ackOk_ackStart (s : State) (retries : Byte) : Post AckOk (execAckStart retries s) := by
  obtain ⟨h1, h8⟩ := retryCeiling_bounds retries
  exact .done ⟨h1, h8, h1⟩

theorem ackOk_ackTimeout {s : State} (hs : AckOk s) : Post AckOk (execAckTimeout s) := by
  refine .ite (fun _ => .raise hs) fun _ => .ite (fun _ => .next (hs.closed rfl rfl)) fun hmore => .done ?_
  obtain ⟨h1, h8, hle⟩ := hs
  have hlt : s.r.ackRetryCnt.toNat < s.r.ackRetries.toNat := by
    rwa [BitVec.le_def, Nat.not_le] at hmore
  refine AckOk.of_same ((Keeps.same_ackStep (W := []) _).same .ack (by decide)) ⟨h1, h8, ?_⟩
  show (s.r.ackRetryCnt + 1).toNat ≤ s.r.ackRetries.toNat
  bv_omega

theorem ackOk_ackReceived {s : State} (hs : AckOk s) : Post AckOk (execAckReceived s) :=
  .ite (fun _ => .raise hs) fun _ => .done (hs.closed rfl rfl)

theorem ackOk_exec {i : Instr} {s t : State} (hs : AckOk s) (ht : exec i s = .next t) : AckOk t := by
  cases hw : decide (Aspect.ack ∈ writes i) with
  | false => exact hs.of_same (exec_same ht .ack hw)
  | true =>
    cases i with
    | sysInit => exact ackOk_sysInit s t ht
    | sysSetClass cls now => exact ackOk_sysSetClass hs cls now t ht
    | ackStart retries => exact ackOk_ackStart s retries t ht
    | ackTimeout => exact ackOk_ackTimeout hs t ht
    | ackReceived => exact ackOk_ackReceived hs t ht
    | _ => exact nomatch hw

/-! ### The duty cycle -/

/-- The duty cycle is at least 1, and before the first accounted transmission there is no time-off. -/
def DutyOk (s : State) : Prop :=
  1 ≤ s.r.aggDcycle.toNat ∧ (s.r.aggTxValid = false → s.r.aggTimeOff = 0 ∧ s.r.lastAggTx = 0)

theorem DutyOk.of_same {s t : State} (h : Aspect.duty.same s t) (hs : DutyOk s) : DutyOk t := by
  simp only [Aspect.same, Prod.mk.injEq] at h
  obtain ⟨hcycle, hoff, hlast, hvalid⟩ := h
  rwa [DutyOk, hcycle, hoff, hlast, hvalid]

theorem dutyOk_sysInit {s : State} (hpar : s.par.Ok) : Post DutyOk (exec .sysInit s) := by
  obtain ⟨-, -, -, -, -, -, -, hcycle⟩ := hpar
  rw [SystemState.sysInit_eq]
  exact .next ⟨hcycle, fun _ => ⟨rfl, rfl⟩⟩

/-- A legal row of the table keeps the duty cycle at least 1. -/
theorem aggDcycle_settable {r : Regs} (hr : 1 ≤ r.aggDcycle.toNat) (v : Word) :
    ∀ row ∈ settableRegisters r v, row.2.1 = true → 1 ≤ row.2.2.aggDcycle.toNat := by
  have hset : decide (1 ≤ v.toNat ∧ v.toNat < 2 ^ 16) = true → 1 ≤ (v.setWidth 16).toNat := by
    rw [decide_eq_true_eq, BitVec.toNat_setWidth]
    rintro ⟨h1, hlt⟩
    rwa [Nat.mod_eq_of_lt hlt]
  simp only [settableRegisters, List.forall_mem_append, List.forall_mem_cons, List.not_mem_nil, false_implies,
    implies_true, and_true, true_and, hr]
  exact hset

theorem DutyOk.writeRegister {s : State} (hs : DutyOk s) {id : Nat} {v : Word} {r : Regs}
    (h : writeRegister s.r id v = some r) : DutyOk { s with r := r } := by
  have hrow := Keeps.mem_settable_of_writeRegister h
  have hkept := Keeps.unsettable_settable s.r v _ hrow
  simp only [Keeps.unsettable, Prod.mk.injEq] at hkept
  obtain ⟨-, -, hoff, hlast, hvalid, -⟩ := hkept
  obtain ⟨hcycle, hfirst⟩ := hs
  refine ⟨aggDcycle_settable hcycle v _ hrow rfl, ?_⟩
  show r.aggTxValid = false → r.aggTimeOff = 0 ∧ r.lastAggTx = 0
  rwa [hoff, hlast, hvalid]

theorem dutyOk_mibSet {s : State} (hs : DutyOk s) (id : Byte) (v : Word) : Post DutyOk (exec (.mibSet id v) s) := by
  cases hr : writeRegister s.r id.toNat v with
  | none =>
    rw [SystemCommands.mibSet_refused hr]
    exact .next hs
  | some r =>
    have hset := hs.writeRegister hr
    cases hkind : validatedKind id.toNat with
    | none =>
      rw [SystemCommands.mibSet_unasked hr hkind]
      exact .next hset
    | some kind =>
      rw [SystemCommands.mibSet_asked hr hkind]
      refine .next ?_
      split
      · exact hset
      · exact hs

theorem dutyOk_dcTxUpdate {s : State} (hs : DutyOk s) (now toa : Word) (channel : Byte) :
    Post DutyOk (execDcTxUpdate now toa channel s) :=
  .ite (fun _ => .raise hs) fun _ => .done ⟨hs.1, nofun⟩

theorem dutyOk_exec {i : Instr} {s t : State} (hpar : s.par.Ok) (hs : DutyOk s) (ht : exec i s = .next t) :
    DutyOk t := by
  cases hw : decide (Aspect.duty ∈ writes i) with
  | false => exact hs.of_same (exec_same ht .duty hw)
  | true =>
    cases i with
    | sysInit => exact dutyOk_sysInit hpar t ht
    | mibSet id v => exact dutyOk_mibSet hs id v t ht
    | dcTxUpdate now toa channel => exact dutyOk_dcTxUpdate hs now toa channel t ht
    | _ => exact nomatch hw

/-! ### The event flags -/

/-- The reserved flags read as 0. -/
def FlagsOk (s : State) : Prop := s.evt &&& reservedEvt = 0

/-- No source posts a reserved flag. -/
theorem setFlag_reserved {evt : BitVec 16} (h : evt &&& reservedEvt = 0) {n : BitVec 4}
    (hn : n.toNat ≤ 4 ∨ (timerOfBit n).isSome = true) : setFlag evt n &&& reservedEvt = 0 := by
  have hbit : ∀ n : BitVec 4, n.toNat ≤ 4 ∨ (timerOfBit n).isSome = true → (1#16 <<< n.toNat) &&& reservedEvt = 0 := by
    decide
  have hsplit : setFlag evt n &&& reservedEvt = (evt &&& reservedEvt) ||| ((1#16 <<< n.toNat) &&& reservedEvt) := by
    rw [setFlag]
    ext j
    simp only [BitVec.getElem_and, BitVec.getElem_or, Bool.and_or_distrib_right]
  rw [hsplit, h, hbit n hn]
  rfl

theorem flagsOk_evtPost {s : State} (hs : FlagsOk s) (n : BitVec 4) (clock : Word) :
    Post FlagsOk (execEvtPost n clock s) := by
  refine .ite (fun hn => .next (setFlag_reserved hs (.inl hn))) fun _ => ?_
  split
  · exact .next hs
  · next x hx =>
    exact .ite (fun _ => .next (setFlag_reserved hs (.inr (by rw [hx]; rfl)))) fun _ => .next hs

theorem flagsOk_exec {i : Instr} {s t : State} (hs : FlagsOk s) (ht : exec i s = .next t) : FlagsOk t := by
  cases hw : decide (Aspect.flags ∈ writes i) with
  | false =>
    have hevt : t.evt = s.evt := exec_same ht .flags hw
    rwa [FlagsOk, hevt]
  | true =>
    cases i with
    | sysInit | evtDrain =>
      cases ht
      exact BitVec.zero_and
    | evtPost n clock => exact flagsOk_evtPost hs n clock t ht
    | _ => exact nomatch hw

/-! ### The invariant -/

theorem invCore_iff (s : State) : InvCore s ↔ MemOk s ∧ AckOk s ∧ DutyOk s ∧ FlagsOk s := by
  unfold MemOk AckOk DutyOk FlagsOk
  tauto

theorem invCore_of_same {s t : State} (h : Same [.memory] s t) (hmem : MemOk t) (hs : InvCore s) : InvCore t := by
  obtain ⟨-, hack, hduty, hflags⟩ := (invCore_iff s).1 hs
  have hevt : t.evt = s.evt := h.same .flags (by decide)
  exact (invCore_iff t).2 ⟨hmem, hack.of_same (h.same .ack (by decide)), hduty.of_same (h.same .duty (by decide)), by
    rwa [FlagsOk, hevt]⟩

/-- Settles O9: each of the four parts is kept on its own. -/
theorem stepKeepsCore : Obligations.StepKeepsCore := fun s t => by
  refine step_keeps (fun s port hs => hs) (fun i s t hpar hs ht => ?exec) (fun a s t hs ht => ?host)
    fun e s t hs ht => ?reject
  case exec =>
    obtain ⟨hmem, hack, hduty, hflags⟩ := (invCore_iff s).1 hs
    exact (invCore_iff t).2
      ⟨memOk_exec hmem ht, ackOk_exec hack ht, dutyOk_exec hpar hduty ht, flagsOk_exec hflags ht⟩
  case host =>
    exact invCore_of_same (hostWrite_same ht) (memOk_hostWrite ((invCore_iff s).1 hs).1 ht) hs
  case reject =>
    have hsame := answerReject_same ht
    exact invCore_of_same hsame.mono (((invCore_iff s).1 hs).1.of_same hsame) hs

end Sys2Proof.Proofs.CoreInvariant
end

section
/-! The tracker invariant (45_classb_beacon.md R216, R232): the small writes of the class B scheduler keep it, so does
every command that is made of them. -/

namespace Sys2Proof.Proofs.TrackerInvariant

open Sys2Proof Sys2Proof.Machine
open Sys2Proof.Proofs.Footprint

/-- The tracker invariant with a name for each part. -/
structure Tracked (s : State) : Prop where
  rests : resting s.b.state = true
  stopped : s.b.run = false → s.b.state = .acquisition ∨ s.b.state = .lost
  notLost : s.b.state = .lost → s.b.run = false
  received : s.b.run = true → s.b.state ≠ .acquisition → s.b.lastRxValid = true
  pending : s.b.acqPending = true → s.b.run = true
  classC : s.r.deviceClass = .c → s.b.run = false
  classB : s.r.deviceClass = .b → s.b.run = true ∧ s.b.lastRxValid = true ∧ s.p.assigned = true
  beacon : s.t.beacon.armed = true → s.b.run = true
  ping : s.t.ping.armed = true → s.r.deviceClass = .b ∧ s.b.state = .idle
  mcslot : s.t.mcslot.armed = true → s.r.deviceClass = .b ∧ s.b.state = .idle
  slotC : s.r.rxSlot = .classC → s.r.deviceClass = .c
  slotB : s.r.rxSlot = .pingSlot ∨ s.r.rxSlot = .mcSlot → s.r.deviceClass = .b
  slotBeacon : s.r.rxSlot = .beacon → s.b.run = true

theorem invTracker_iff (s : State) : InvTracker s ↔ Tracked s :=
  ⟨fun ⟨h1, h2, h3, h4, h5, h6, h7, h8, h9, h10, h11, h12, h13⟩ =>
    ⟨h1, h2, h3, h4, h5, h6, h7, h8, h9, h10, h11, h12, h13⟩,
   fun ⟨h1, h2, h3, h4, h5, h6, h7, h8, h9, h10, h11, h12, h13⟩ =>
    ⟨h1, h2, h3, h4, h5, h6, h7, h8, h9, h10, h11, h12, h13⟩⟩

namespace Tracked

variable {s t : State}

/-! ### What leaves the tracker alone -/

theorem of_same (h : Tracked s) (hslot : Aspect.slot.same s t) (hcls : Aspect.cls.same s t)
    (htracker : Aspect.tracker.same s t) (hslots : Aspect.slots.same s t) (htimers : Aspect.timers.same s t) :
    Tracked t := by
  simp only [Aspect.same, Prod.mk.injEq] at hslot hcls htracker hslots htimers
  obtain ⟨hb, -⟩ := htracker
  obtain ⟨hp, -, -⟩ := hslots
  obtain ⟨hbeacon, hping, hmcslot⟩ := htimers
  rw [← invTracker_iff] at h ⊢
  rwa [InvTracker, hslot, hcls, hb, hp, hbeacon, hping, hmcslot]

theorem of_sameBut {W : List Aspect} (h : Tracked s) (hsame : Same W s t)
    (hW : ∀ a ∈ W, a ∉ [Aspect.slot, .cls, .tracker, .slots, .timers] := by decide) : Tracked t := by
  have hkept : ∀ a ∈ [Aspect.slot, .cls, .tracker, .slots, .timers], a.same s t := fun a ha =>
    hsame.same a fun hin => hW a hin ha
  exact h.of_same (hkept _ (by decide)) (hkept _ (by decide)) (hkept _ (by decide)) (hkept _ (by decide))
    (hkept _ (by decide))

theorem reply (h : Tracked s) {st : Status} {res : List Byte} : Tracked (s.reply st res) :=
  h.of_sameBut (Same.reply (W := []) st res s)

theorem log (h : Tracked s) (c : Call) : Tracked (s.log c) := h.of_sameBut (Same.log (W := []) s c)

theorem of_callsOnly (h : Tracked s) (hcalls : CallsOnly s t) : Tracked t :=
  h.of_sameBut (Same.of_callsOnly (W := []) hcalls)

theorem closeExchange (h : Tracked s) : Tracked (closeExchange s) := h.of_sameBut (Same.closeExchange s)

/-- Entries, offsets and slot numbers are free. -/
theorem setSlots (h : Tracked s) (p : Ping) (mc : Vector McEntry 4) (hp : p.assigned = s.p.assigned) :
    Tracked { s with p := p, mc := mc } :=
  { h with classB := fun hb => ⟨(h.classB hb).1, (h.classB hb).2.1, hp.trans (h.classB hb).2.2⟩ }

/-! ### Timers -/

theorem disarm (h : Tracked s) (x : TimerName) : Tracked { s with t := s.t.disarm x } := by
  cases x with
  | rx1 | rx2 | ackTo | dcDelay => exact { h with ping := h.ping }
  | beacon => exact { h with beacon := nofun }
  | ping => exact { h with ping := nofun }
  | mcslot => exact { h with mcslot := nofun }

theorem armPing_armed {now : Word} (harmed : (Machine.armPing now s).t.ping.armed = true) : s.r.deviceClass = .b := by
  by_contra hclass
  rw [Slots.armPing_off now (.inl hclass)] at harmed
  cases harmed

theorem armPing (h : Tracked s) (hidle : s.b.state = .idle) (now : Word) : Tracked (Machine.armPing now s) := by
  have hping : (Machine.armPing now s).t.ping.armed = true → s.r.deviceClass = .b ∧ s.b.state = .idle :=
    fun harmed => ⟨armPing_armed harmed, hidle⟩
  rw [armPing_frame]
  exact { h with ping := hping }

theorem armMc_armed {now : Word} (harmed : (Machine.armMc now s).t.mcslot.armed = true) : s.r.deviceClass = .b := by
  by_contra hclass
  rw [Slots.armMc_off now hclass] at harmed
  cases harmed

theorem armMc (h : Tracked s) (hidle : s.b.state = .idle) (now : Word) : Tracked (Machine.armMc now s) := by
  have hmcslot : (Machine.armMc now s).t.mcslot.armed = true → s.r.deviceClass = .b ∧ s.b.state = .idle :=
    fun harmed => ⟨armMc_armed harmed, hidle⟩
  rw [armMc_frame]
  exact { h with mcslot := hmcslot }

/-! ### The slot identity -/

/-- A slot identity that belongs to the class or the tracker. -/
theorem setSlot (h : Tracked s) {x : RxSlot} (hc : x = .classC → s.r.deviceClass = .c)
    (hb : x = .pingSlot ∨ x = .mcSlot → s.r.deviceClass = .b) (hbeacon : x = .beacon → s.b.run = true) :
    Tracked (s.setSlot x) :=
  { h with slotC := hc, slotB := hb, slotBeacon := hbeacon }

theorem setSlot_none (h : Tracked s) : Tracked (s.setSlot .none) :=
  h.setSlot nofun (by rintro (hx | hx) <;> cases hx) nofun

theorem restOrListen (h : Tracked s) : Tracked (restOrListen s) := by
  by_cases hclass : s.r.deviceClass = .c
  · rw [Machine.restOrListen, if_pos hclass]
    have hset : Tracked (s.setSlot .classC) := h.setSlot (fun _ => hclass) (by rintro (hx | hx) <;> cases hx) nofun
    exact hset.of_callsOnly (listen_frame ..)
  · rw [Machine.restOrListen, if_neg hclass]
    exact h.setSlot_none.log .radioSleep

theorem openBeacon (h : Tracked s) (hrun : s.b.run = true) (limit : Word) : Tracked (openBeacon limit s) := by
  rw [ClassB.openBeacon_state]
  exact { h with slotC := nofun, slotB := (by rintro (hx | hx) <;> cases hx), slotBeacon := fun _ => hrun }

theorem openSlot (h : Tracked s) (hclass : s.r.deviceClass = .b) {slot : RxSlot}
    (hslot : slot = .pingSlot ∨ slot = .mcSlot) (arg : Byte) (mcPhy : Option (Word × Byte)) :
    Tracked (openSlot slot arg mcPhy s) := by
  rw [ClassB.openSlot_state]
  refine { h with slotC := fun hc => ?_, slotB := fun _ => hclass, slotBeacon := fun hbeacon => ?_ }
  · rcases hslot with rfl | rfl <;> cases hc
  · rcases hslot with rfl | rfl <;> cases hbeacon

/-! ### The tracker's own writes -/

/-- Where `EnterIdle` starts: the tracker has run, and goes on with a beacon received. -/
theorem idleStart (h : Tracked s) (hrun : s.b.run = true) {b : Beacon} {p : Ping} {path : List BeaconState}
    (hb : b.run = true ∧ b.lastRxValid = true) (hp : p.assigned = s.p.assigned) :
    Tracked (Keeps.idleStart { s with b := b, p := p, path := path }) where
  rests := rfl
  stopped hno := absurd (hb.1.symm.trans hno) nofun
  notLost := nofun
  received _ _ := hb.2
  pending _ := hb.1
  classC hc := absurd (hrun.symm.trans (h.classC hc)) nofun
  classB hclass := ⟨hb.1, hb.2, hp.trans (h.classB hclass).2.2⟩
  beacon _ := hb.1
  ping harmed := ⟨(h.ping harmed).1, rfl⟩
  mcslot harmed := ⟨(h.mcslot harmed).1, rfl⟩
  slotC := h.slotC
  slotB := h.slotB
  slotBeacon _ := hb.1

theorem enterIdle (h : Tracked s) (hrun : s.b.run = true) {u : State}
    (hu : u = { s with b := u.b, p := u.p, path := u.path }) (hb : u.b.run = true ∧ u.b.lastRxValid = true)
    (hp : u.p.assigned = s.p.assigned) (now : Word) : Tracked (enterIdle now u) := by
  have hstart := h.idleStart hrun hb hp (path := u.path)
  rw [← hu] at hstart
  rw [Keeps.enterIdle_eq]
  exact ((hstart.armPing rfl now).armMc (by rw [armPing_b]; rfl) now).setSlot_none.log .radioSleep

/-- A tracker that stops, in one of its two final states: the class B timers are off, the device is out of class B, and
the radio does not listen for it. -/
theorem stop (h : Tracked s) {b : Beacon} {r : Regs} {path : List BeaconState}
    (hb : b.run = false ∧ b.acqPending = false ∧ (b.state = .acquisition ∨ b.state = .lost))
    (hclass : r.deviceClass = (leaveClassB s.r).deviceClass)
    (hslot : r.rxSlot = .none ∨ (¬ ClassB.ListensClassB s.r ∧ r.rxSlot = s.r.rxSlot)) :
    Tracked { s with b := b, r := r, t := s.t.disarmClassB, path := path } := by
  obtain ⟨hrun, hpending, hstate⟩ := hb
  have hnotB : r.deviceClass ≠ .b := by
    rw [hclass, ClassB.leaveClassB_eq]
    split <;> simp_all
  have hkeepsC : s.r.deviceClass = .c → r.deviceClass = .c := fun hc => by
    rw [hclass, ClassB.leaveClassB_eq, hc]
    rfl
  have hquiet : ¬ ClassB.ListensClassB r := by
    rcases hslot with hnone | ⟨hquiet, hsame⟩
    · rintro (hx | hx | hx) <;> cases hnone.symm.trans hx
    · rwa [ClassB.ListensClassB, hsame]
  exact
    { rests := by rcases hstate with hx | hx <;> rw [show b.state = _ from hx] <;> rfl
      stopped := fun _ => hstate
      notLost := fun _ => hrun
      received := fun hyes => absurd (hrun.symm.trans hyes) nofun
      pending := fun hyes => absurd (hpending.symm.trans hyes) nofun
      classC := fun _ => hrun
      classB := fun hB => absurd hB hnotB
      beacon := nofun
      ping := nofun
      mcslot := nofun
      slotC := fun hc => by
        rcases hslot with hnone | ⟨-, hsame⟩
        · cases hnone.symm.trans hc
        · exact hkeepsC (h.slotC (hsame.symm.trans hc))
      slotB := fun hB => absurd (.inr hB) hquiet
      slotBeacon := fun hbeacon => absurd (.inl hbeacon) hquiet }

theorem haltTracker (h : Tracked s) : Tracked (haltTracker s) := by
  have hb : let b := { Beacon.reset s.par with symto := s.b.symto }
      b.run = false ∧ b.acqPending = false ∧ (b.state = .acquisition ∨ b.state = .lost) := ⟨rfl, rfl, .inl rfl⟩
  by_cases hlisten : ClassB.ListensClassB s.r
  · rw [ClassB.haltTracker_listening hlisten]
    exact (h.stop hb (r := { leaveClassB s.r with rxSlot := .none }) rfl (.inl rfl)).log .radioSleep
  · rw [ClassB.haltTracker_idle hlisten]
    exact h.stop hb rfl (.inr ⟨hlisten, by rw [ClassB.leaveClassB_eq]⟩)

theorem lostBeacon (h : Tracked s) : Tracked (lostBeacon (ClassB.missed s)) :=
  (h.stop (b := { s.b with state := .lost, run := false, acqPending := false })
    (r := { leaveClassB s.r with rxSlot := .none }) (path := (Machine.lostBeacon (ClassB.missed s)).path)
    ⟨rfl, rfl, .inr rfl⟩ rfl (.inl rfl)).log .radioSleep

theorem acquiring (h : Tracked s) (hrun : s.b.run = false) (hclass : s.r.deviceClass ≠ .c) :
    Tracked (ClassB.acquiring s) :=
  have hnotB : s.r.deviceClass ≠ .b := fun hB => absurd (hrun.symm.trans (h.classB hB).1) nofun
  { h with
    rests := rfl
    stopped := nofun
    notLost := nofun
    received := fun _ hne => absurd rfl hne
    pending := fun _ => rfl
    classC := fun hC => absurd hC hclass
    classB := fun hB => absurd hB hnotB
    beacon := fun _ => rfl
    ping := fun harmed => absurd (h.ping harmed).1 hnotB
    mcslot := fun harmed => absurd (h.mcslot harmed).1 hnotB
    slotBeacon := fun _ => rfl }

/-- The guard time begins. -/
theorem guarding (h : Tracked s) (hrun : s.b.run = true) (hidle : s.b.state = .idle) : Tracked (ClassB.guarding s) :=
  { h with
    rests := rfl
    stopped := fun hno => absurd (hrun.symm.trans hno) nofun
    notLost := nofun
    received := fun _ _ => h.received hrun (by rw [hidle]; nofun)
    ping := nofun
    mcslot := nofun }

/-- The beacon is due. -/
theorem enter_rx (h : Tracked s) (hrun : s.b.run = true) (hguard : s.b.state = .guard) : Tracked (s.enter .rx) :=
  { h with
    rests := rfl
    stopped := fun hno => absurd (hrun.symm.trans hno) nofun
    notLost := nofun
    received := fun _ _ => h.received hrun (by rw [hguard]; nofun)
    ping := fun harmed => absurd (hguard.symm.trans (h.ping harmed).2) nofun
    mcslot := fun harmed => absurd (hguard.symm.trans (h.mcslot harmed).2) nofun }

/-! ### The commands -/

theorem sysInit (s : State) : Post Tracked (exec .sysInit s) :=
  have hreset : Tracked s.reinit :=
    ⟨rfl, fun _ => .inl rfl, nofun, nofun, nofun, nofun, nofun, nofun, nofun, nofun, nofun,
      (by rintro (hx | hx) <;> cases hx), nofun⟩
  .done ((((hreset.log _).log _).log _).log _).reply

theorem classAToB (h : Tracked s) (hclass : s.r.deviceClass = .a) (hrun : s.b.run = true)
    (hvalid : s.b.lastRxValid = true) (hassigned : s.p.assigned = true) (now : Word) : Tracked (classAToB now s) := by
  have hB : Tracked { s with r := { s.r with deviceClass := .b } } :=
    { h with
      classC := nofun
      classB := fun _ => ⟨hrun, hvalid, hassigned⟩
      ping := fun harmed => ⟨rfl, (h.ping harmed).2⟩
      mcslot := fun harmed => ⟨rfl, (h.mcslot harmed).2⟩
      slotC := fun hc => absurd (hclass.symm.trans (h.slotC hc)) nofun
      slotB := fun _ => rfl }
  unfold Machine.classAToB
  dsimp only
  split
  · next hidle => exact (hB.armPing hidle now).armMc (by rwa [armPing_b]) now
  · exact hB

theorem classAToC (h : Tracked s) (hclass : s.r.deviceClass = .a) (hrun : s.b.run = false) :
    Tracked (classAToC s) := by
  have hnot : ∀ {p : Prop}, s.r.deviceClass = .b → p := fun hB => absurd (hclass.symm.trans hB) nofun
  have hC : Tracked { s with r := { s.r with deviceClass := .c, rxSlot := .classC } } :=
    { h with
      classC := fun _ => hrun
      classB := nofun
      ping := fun harmed => hnot (h.ping harmed).1
      mcslot := fun harmed => hnot (h.mcslot harmed).1
      slotC := fun _ => rfl
      slotB := by rintro (hx | hx) <;> cases hx
      slotBeacon := nofun }
  exact (hC.log .radioStandby).of_callsOnly (listen_frame ..)

theorem classCToA (h : Tracked s) (hclass : s.r.deviceClass = .c) : Tracked (classCToA s) := by
  have hnot : ∀ {p : Prop}, s.r.deviceClass = .b → p := fun hB => absurd (hclass.symm.trans hB) nofun
  have hA : Tracked { s with r := { s.r with deviceClass := .a, rxSlot := .none } } :=
    { h with
      classC := nofun
      classB := nofun
      ping := fun harmed => hnot (h.ping harmed).1
      mcslot := fun harmed => hnot (h.mcslot harmed).1
      slotC := nofun
      slotB := by rintro (hx | hx) <;> cases hx
      slotBeacon := nofun }
  exact hA.log .radioSleep

theorem sysSetClass (h : Tracked s) (cls : BitVec 2) (now : Word) : Post Tracked (execSysSetClass cls now s) := by
  have hclose := h.closeExchange
  unfold execSysSetClass
  split
  · exact .raise h.reply
  · next target _ =>
    cases hclass : s.r.deviceClass <;> cases target
    case a.b =>
      refine .ite (fun _ => .raise h.reply) fun hno => .done ?_
      simp only [not_or, Bool.not_eq_false] at hno
      obtain ⟨hrun, hvalid, hassigned⟩ := hno
      exact (hclose.classAToB hclass hrun hvalid hassigned now).reply
    case a.c =>
      refine .ite (fun _ => .raise h.reply) fun hfree => .done (hclose.classAToC hclass ?_).reply
      exact Bool.eq_false_of_not_eq_true hfree
    case b.a => exact .done hclose.haltTracker.reply
    case c.a => exact .done (hclose.classCToA hclass).reply
    case b.c | c.b => exact .raise h.reply
    case a.a | b.b | c.c => exact .done h.reply

theorem putEntry (h : Tracked s) (x : BitVec 2) (e : McEntry) : Tracked (SystemCommands.putEntry x e s) :=
  { h with classB := h.classB }

theorem mcAdd (h : Tracked s) (x : BitVec 2) (addr freq : Word) (dr : Byte) (per : BitVec 3) (now : Word) :
    Post Tracked (exec (.mcAdd x addr freq dr per now) s) := by
  cases hvalid : (at4 s.mc x).valid with
  | true =>
    rw [SystemCommands.mcAdd_used addr freq dr per now hvalid]
    exact .next h.reply
  | false =>
    rw [SystemCommands.mcAdd_free addr freq dr per now hvalid]
    refine .next (reply (st := .ok) (res := []) ?_)
    split
    · split
      · next hidle => exact (h.putEntry _ _).armMc hidle now
      · exact h.putEntry _ _
    · exact h.putEntry _ _

theorem mcRemove (h : Tracked s) (x : BitVec 2) (now : Word) : Post Tracked (exec (.mcRemove x now) s) := by
  cases hvalid : (at4 s.mc x).valid with
  | false =>
    rw [SystemCommands.mcRemove_free now hvalid]
    exact .next h.reply
  | true =>
    rw [SystemCommands.mcRemove_used now hvalid]
    refine .next (reply (st := .ok) (res := []) ?_)
    split
    · next howner => exact (h.putEntry _ _).armMc (h.mcslot howner.1).2 now
    · exact h.putEntry _ _

theorem rxwTxDone (h : Tracked s) (now : Word) (confirmed : Bool) :
    Post Tracked (exec (.rxwTxDone now confirmed) s) := by
  rw [RxWindows.rxwTxDone_eq]
  have hasked : CallsOnly s (RxWindows.rx2Asked s).2 := (regionWindow_frame _ s).trans (regionWindow_frame _ _)
  refine .next (reply (st := .ok) (restOrListen ?_))
  rw [RxWindows.armRx_eq]
  exact (h.of_callsOnly hasked).of_sameBut (Keeps.same_classATimers (W := []) _ _ _ _ _)

theorem rxwOpen (h : Tracked s) (win2 : Bool) : Post Tracked (execRxwOpen win2 s) := by
  have hasked := h.of_sameBut
    (Same.of_seOnly (W := []) (Exceptions.MadeCalls.of_openConfig (keys := false) win2 s).frame)
  rw [RxWindows.execRxwOpen_eq]
  refine .ite (fun _ => .done ((setSlot hasked ?_ ?_ ?_).log _).reply) fun _ => .raise hasked.reply
  all_goals cases win2
  all_goals simp [winSlot]

theorem rxwRxDone (h : Tracked s) (outcome : BitVec 2) : Post Tracked (execRxwRxDone outcome s) := by
  refine .ite (fun _ => .raise h.reply) fun _ => .done (reply (restOrListen ?_))
  split
  · exact h.disarm .rx2
  · exact h

theorem bcnAcquire (h : Tracked s) (now : Word) : Post Tracked (execBcnAcquire now s) := by
  refine .ite (fun _ => .raise h.reply) fun hrun => .ite (fun _ => .raise h.reply) fun hclass => .done ?_
  have hrun : s.b.run = false := by simpa using hrun
  exact ((h.acquiring hrun hclass).openBeacon rfl _).reply

theorem bcnRxBeacon (h : Tracked s) (now tBeacon timeS : Word) :
    Post Tracked (exec (.bcnRxBeacon now tBeacon timeS) s) := by
  by_cases hawaits : ClassB.AwaitsBeacon s
  · rw [ClassB.bcnRxBeacon_locks now tBeacon timeS hawaits]
    exact .next (h.enterIdle hawaits.1 (u := ClassB.lockedOn tBeacon timeS s) rfl ⟨hawaits.1, rfl⟩ rfl now).reply
  · rw [ClassB.bcnRxBeacon_unexpected now tBeacon timeS hawaits]
    exact .next h.reply

theorem bcnRxTimeout (h : Tracked s) (now : Word) : Post Tracked (exec (.bcnRxTimeout now) s) := by
  by_cases hawaits : ClassB.AwaitsBeacon s
  · by_cases hgone : ClassB.BeaconGone s now
    · rw [ClassB.bcnRxTimeout_lost hawaits hgone]
      exact .next h.lostBeacon.reply
    · have hvalid : s.b.lastRxValid = true := by
        by_contra hno
        exact hgone (.inl (by simpa using hno))
      rw [ClassB.bcnRxTimeout_extrapolates hawaits hgone]
      exact .next (h.enterIdle hawaits.1 (u := (extrapolate (ClassB.missed s)).enter .reacquisition) rfl
        ⟨hawaits.1, hvalid⟩ rfl now).reply
  · rw [ClassB.bcnRxTimeout_unexpected now hawaits]
    exact .next h.reply

theorem bcnTimer (h : Tracked s) (now : Word) : Post Tracked (exec (.bcnTimer now) s) := by
  by_cases hstale : s.b.run = false ∨ (s.b.state ≠ .idle ∧ s.b.state ≠ .guard)
  · rw [ClassB.bcnTimer_stale now hstale]
    exact .next h.reply
  · obtain ⟨hrun, hstate⟩ := not_or.1 hstale
    have hrun : s.b.run = true := by simpa using hrun
    by_cases hidle : s.b.state = .idle
    · rw [ClassB.bcnTimer_idle now hrun hidle, RxWindows.regionWindow_state]
      have hguarding := h.guarding hrun hidle
      exact .next { hguarding with beacon := fun _ => hrun }
    · have hguard : s.b.state = .guard := by
        by_contra hno
        exact hstate ⟨hidle, hno⟩
      rw [ClassB.bcnTimer_guard now hrun hguard]
      have hasked := (h.enter_rx hrun hguard).of_callsOnly (regionWindow_frame (.regionBeaconWindow s.b.symto) _)
      exact .next (hasked.openBeacon (by rw [RxWindows.regionWindow_state]; exact hrun) _).reply

theorem pingSetInfo (h : Tracked s) (per : BitVec 3) (now : Word) : Post Tracked (execPingSetInfo per now s) := by
  have hset : ∀ p : Ping, p.assigned = true → Tracked { s with p := p } := fun p hp =>
    { h with classB := fun hB => ⟨(h.classB hB).1, (h.classB hB).2.1, hp⟩ }
  refine .ite (fun _ => .done (reply ?_)) fun _ => .done (hset _ rfl).reply
  split
  · next hidle => exact (hset _ rfl).armPing hidle now
  · exact hset _ rfl

theorem pingTimer (h : Tracked s) (now : Word) : Post Tracked (exec (.pingTimer now) s) := by
  by_cases hready : SlotTimers.PingReady s
  · have htaken : Tracked (SlotTimers.pingTaken s) := h.setSlots _ s.mc rfl
    obtain ⟨-, hidle, hclass, -, -⟩ := id hready
    by_cases hy : SlotTimers.PingYields s
    · rw [SlotTimers.pingTimer_yields now hready hy]
      exact .next (htaken.armPing hidle now).reply
    · rw [SlotTimers.pingTimer_opens now hready hy]
      refine .next ((htaken.openSlot hclass (.inl rfl) _ _).armPing ?_ now).reply
      rw [ClassB.openSlot_state]
      exact hidle
  · rw [SlotTimers.pingTimer_stale now hready]
    exact .next h.reply

theorem mcslotTimer (h : Tracked s) (now : Word) : Post Tracked (exec (.mcslotTimer now) s) := by
  by_cases hready : SlotTimers.McReady s
  · have htaken : Tracked (SlotTimers.mcTaken s) := h.setSlots s.p _ rfl
    obtain ⟨-, hidle, hclass, -, -⟩ := id hready
    by_cases hy : SlotTimers.McYields s
    · rw [SlotTimers.mcslotTimer_yields now hready hy]
      exact .next (htaken.armMc hidle now).reply
    · rw [SlotTimers.mcslotTimer_opens now hready hy]
      refine .next ((htaken.openSlot hclass (.inr rfl) _ _).armMc ?_ now).reply
      rw [ClassB.openSlot_state]
      exact hidle
  · rw [SlotTimers.mcslotTimer_stale now hready]
    exact .next h.reply

theorem slotRxDone (h : Tracked s) (outcome : BitVec 2) : Post Tracked (execSlotRxDone outcome s) :=
  .ite (fun _ => .raise h.reply) fun _ => .done (h.setSlot_none.log .radioSleep).reply

theorem setEvt (h : Tracked s) (evt : BitVec 16) : Tracked { s with evt := evt } :=
  h.of_sameBut (Keeps.same_setEvt s evt)

theorem evtPost (h : Tracked s) (n : BitVec 4) (clock : Word) : Post Tracked (execEvtPost n clock s) := by
  refine .ite (fun _ => .next (h.setEvt _)) fun _ => ?_
  split
  · exact .next h
  · next x _ => exact .ite (fun _ => .next ((h.disarm x).setEvt _)) fun _ => .next h

end Tracked

theorem tracked_exec {i : Instr} {s t : State} (h : Tracked s) (ht : exec i s = .next t) : Tracked t := by
  cases i with
  | sysInit => exact Tracked.sysInit s t ht
  | sysSetClass cls now => exact h.sysSetClass cls now t ht
  | mcAdd x addr freq dr per now => exact h.mcAdd x addr freq dr per now t ht
  | mcRemove x now => exact h.mcRemove x now t ht
  | rxwTxDone now confirmed => exact h.rxwTxDone now confirmed t ht
  | rxwOpen win2 => exact h.rxwOpen win2 t ht
  | rxwRxDone outcome => exact h.rxwRxDone outcome t ht
  | bcnAcquire now => exact h.bcnAcquire now t ht
  | bcnRxBeacon now tBeacon timeS => exact h.bcnRxBeacon now tBeacon timeS t ht
  | bcnRxTimeout now => exact h.bcnRxTimeout now t ht
  | bcnTimer now => exact h.bcnTimer now t ht
  | bcnHalt => exact Post.done (Q := Tracked) h.haltTracker.reply t ht
  | pingSetInfo per now => exact h.pingSetInfo per now t ht
  | pingTimer now => exact h.pingTimer now t ht
  | mcslotTimer now => exact h.mcslotTimer now t ht
  | slotRxDone outcome => exact h.slotRxDone outcome t ht
  | evtPost n clock => exact h.evtPost n clock t ht
  | _ =>
    exact h.of_same (exec_same ht .slot rfl) (exec_same ht .cls rfl) (exec_same ht .tracker rfl)
      (exec_same ht .slots rfl) (exec_same ht .timers rfl)

/-- Settles O10: `tracked_exec`; a store of the HOST and an answer to no command leave the tracker alone. -/
theorem stepKeepsTracker : Obligations.StepKeepsTracker := fun s t hs => by
  rw [invTracker_iff] at hs ⊢
  exact CoreInvariant.step_keeps (I := Tracked) (fun s port h => { h with rests := h.rests })
    (fun _ _ _ _ h ht => tracked_exec h ht) (fun _ _ _ h ht => h.of_sameBut (CoreInvariant.hostWrite_same ht))
    (fun _ _ _ h ht => h.of_sameBut (CoreInvariant.answerReject_same ht)) hs

end Sys2Proof.Proofs.TrackerInvariant
end

section
/-! The slot invariant (45_classb_beacon.md R221, R222, R225 to R229, 46_system.md R256, R257) in three parts: the sizes
that always fit, the place of the device's next slot while a beacon is known, and the entry an armed multicast timer
runs for. `ArmMc` brings the third about from the first alone, and `EnterIdle` all three. -/

namespace Sys2Proof.Proofs.SlotInvariant

open Sys2Proof Sys2Proof.Machine
open Sys2Proof.Proofs.Footprint
open Sys2Proof.Proofs.Slots

/-! ### Periods and entries -/

theorem pingPeriodOf_bounds : ∀ per : BitVec 3, 1 ≤ (pingPeriodOf per).toNat ∧ (pingPeriodOf per).toNat ≤ 4096 := by
  decide

theorem pingOffset_lt_period (par : Params) (t addr : Word) (per : BitVec 3) :
    (pingOffset par t addr (pingPeriodOf per)).toNat < (pingPeriodOf per).toNat :=
  pingOffset_lt par t addr _ (pingPeriodOf_bounds per).1 (pingPeriodOf_bounds per).2

theorem entryOk_skipEntry (s : State) (now : Word) {e : McEntry} (h : entryOk e) : entryOk (skipEntry s now e) := by
  cases hvalid : e.valid with
  | false => rwa [skipEntry_free s now hvalid]
  | true =>
    obtain ⟨hnb, hperiod, hoffset, hnext⟩ := h.2 hvalid
    rw [skipEntry_valid s now hvalid]
    obtain ⟨-, hle, -, -⟩ := nextOf_spec s now e.offset e.pingPeriod hnext
    exact ⟨fun hno => absurd (hvalid.symm.trans hno) nofun, fun _ => ⟨hnb, hperiod, hoffset, hle⟩⟩

theorem entryOk_renewEntry (par : Params) (timeS : Word) {e : McEntry} (h : entryOk e) :
    entryOk (renewEntry par timeS e) := by
  cases hvalid : e.valid with
  | false =>
    rw [h.1 hvalid]
    exact SystemState.entryOk_reset
  | true =>
    obtain ⟨hnb, hperiod, -, -⟩ := h.2 hvalid
    rw [renewEntry, if_pos hvalid]
    refine ⟨fun hno => absurd (hvalid.symm.trans hno) nofun, fun _ => ⟨hnb, hperiod, ?_, Nat.zero_le _⟩⟩
    rw [hperiod]
    exact pingOffset_lt_period ..

theorem entryOk_newEntry (addr freq : Word) (dr : Byte) (per : BitVec 3) {offset : BitVec 12}
    (hoffset : offset.toNat < (pingPeriodOf per).toNat) : entryOk { newEntry addr freq dr per with offset := offset } :=
  ⟨nofun, fun _ => ⟨rfl, rfl, hoffset, Nat.zero_le _⟩⟩

/-! ### The three parts -/

/-- The sizes that fit at any time. -/
structure Sized (s : State) : Prop where
  pingNb : s.p.pingNb = pingNbOf s.p.periodicity
  pingPeriod : s.p.pingPeriod = pingPeriodOf s.p.periodicity
  entries : ∀ h : BitVec 2, entryOk (at4 s.mc h)
  beaconSymto : s.b.symto.toNat ≤ s.par.bcnSymtoMax.toNat
  pingSymto : s.p.symto.toNat ≤ s.par.pingSymtoMax.toNat

/-- While a beacon places them, the offset and the next slot of the device are of this period. -/
def Placed (s : State) : Prop :=
  s.b.run = true → s.b.lastRxValid = true → s.p.assigned = true →
    s.p.offset.toNat < s.p.pingPeriod.toNat ∧ s.p.nextN.toNat ≤ s.p.pingNb.toNat

/-- An armed multicast timer has an entry with a slot left. -/
def Owned (s : State) : Prop := s.t.mcslot.armed = true → HasSlot s.mc s.r.mcslotOwner

/-- The slot invariant. -/
structure Fit (s : State) : Prop where
  sized : Sized s
  placed : Placed s
  owned : Owned s

theorem invSlots_iff (s : State) : InvSlots s ↔ Fit s :=
  ⟨fun ⟨h1, h2, h3, h4, h5, h6, h7⟩ => ⟨⟨h1, h2, h4, h6, h7⟩, h3, h5⟩,
   fun ⟨⟨h1, h2, h4, h6, h7⟩, h3, h5⟩ => ⟨h1, h2, h3, h4, h5, h6, h7⟩⟩

variable {s t : State}

/-! ### `ArmPing` and `ArmMc` -/

theorem Sized.armPing (h : Sized s) (now : Word) : Sized (armPing now s) := by
  rw [armPing_frame]
  exact { h with pingNb := h.pingNb }

theorem Placed.armPing (h : Placed s) (now : Word) : Placed (armPing now s) := by
  by_cases hoff : s.r.deviceClass ≠ .b ∨ s.p.assigned = false
  · rw [armPing_off now hoff]
    exact h
  · simp only [not_or, not_not, Bool.not_eq_false] at hoff
    obtain ⟨hclass, hassigned⟩ := hoff
    rw [armPing_on now hclass hassigned]
    intro hrun hvalid _
    obtain ⟨hoffset, hnext⟩ := h hrun hvalid hassigned
    obtain ⟨-, hle, -, -⟩ := nextOf_spec s now s.p.offset s.p.pingPeriod hnext
    exact ⟨hoffset, hle⟩

theorem Owned.armPing (h : Owned s) (now : Word) : Owned (armPing now s) := by
  rw [armPing_frame]
  exact h

theorem Sized.armMc (h : Sized s) (now : Word) : Sized (armMc now s) := by
  have hentries : ∀ x, entryOk (at4 (Machine.armMc now s).mc x) := fun x => by
    rw [armMc_mc]
    split
    · rw [at4_map]
      exact entryOk_skipEntry s now (h.entries x)
    · exact h.entries x
  rw [armMc_frame]
  exact { h with entries := hentries }

theorem Placed.armMc (h : Placed s) (now : Word) : Placed (armMc now s) := by
  rw [armMc_frame]
  exact h

/-- `ArmMc` arms the timer for an entry with a slot left, whatever it was armed for. -/
theorem owned_armMc (now : Word) (s : State) : Owned (armMc now s) := by
  by_cases hclass : s.r.deviceClass = .b
  · cases hfirst : firstEntry (s.mc.map (skipEntry s now)) with
    | none =>
      rw [armMc_none now hclass hfirst]
      nofun
    | some first =>
      rw [armMc_some now hclass hfirst]
      exact fun _ => hasSlot_of_firstEntry hfirst
  · rw [armMc_off now hclass]
    nofun

theorem Fit.armPing (h : Fit s) (now : Word) : Fit (armPing now s) :=
  ⟨h.sized.armPing now, h.placed.armPing now, h.owned.armPing now⟩

theorem fit_armMc (hsized : Sized s) (hplaced : Placed s) (now : Word) : Fit (armMc now s) :=
  ⟨hsized.armMc now, hplaced.armMc now, owned_armMc now s⟩

theorem Sized.openSlot (h : Sized s) (slot : RxSlot) (arg : Byte) (mcPhy : Option (Word × Byte)) :
    Sized (openSlot slot arg mcPhy s) := by
  rw [ClassB.openSlot_state]
  exact { h with pingNb := h.pingNb }

theorem Placed.openSlot (h : Placed s) (slot : RxSlot) (arg : Byte) (mcPhy : Option (Word × Byte)) :
    Placed (openSlot slot arg mcPhy s) := by
  rw [ClassB.openSlot_state]
  exact h

/-! ### What leaves the slots alone -/

namespace Fit

theorem of_same (h : Fit s) (henv : Aspect.env.same s t) (htracker : Aspect.tracker.same s t)
    (hslots : Aspect.slots.same s t) (htimers : Aspect.timers.same s t) : Fit t := by
  simp only [Aspect.same, Prod.mk.injEq] at henv htracker hslots htimers
  obtain ⟨hpar, -⟩ := henv
  obtain ⟨hb, -⟩ := htracker
  obtain ⟨hp, hmc, howner⟩ := hslots
  obtain ⟨-, -, hmcslot⟩ := htimers
  rw [← invSlots_iff] at h ⊢
  rwa [InvSlots, hpar, hb, hp, hmc, howner, hmcslot]

theorem of_sameBut {W : List Aspect} (h : Fit s) (hsame : Same W s t)
    (hW : ∀ a ∈ W, a ∉ [Aspect.env, .tracker, .slots, .timers] := by decide) : Fit t := by
  have hkept : ∀ a ∈ [Aspect.env, .tracker, .slots, .timers], a.same s t := fun a ha =>
    hsame.same a fun hin => hW a hin ha
  exact h.of_same (hkept _ (by decide)) (hkept _ (by decide)) (hkept _ (by decide)) (hkept _ (by decide))

theorem reply (h : Fit s) {st : Status} {res : List Byte} : Fit (s.reply st res) :=
  h.of_sameBut (Same.reply (W := []) st res s)

theorem openSlot (h : Fit s) (slot : RxSlot) (arg : Byte) (mcPhy : Option (Word × Byte)) :
    Fit (openSlot slot arg mcPhy s) := h.of_sameBut (Same.openSlot slot arg mcPhy s)

/-- The tracker moves: its symbol timeout and what it knows of the beacon stay. -/
theorem setBeacon (h : Fit s) {b : Beacon} {path : List BeaconState}
    (hb : (b.run, b.lastRxValid, b.symto) = (s.b.run, s.b.lastRxValid, s.b.symto)) :
    Fit { s with b := b, path := path } := by
  simp only [Prod.mk.injEq] at hb
  obtain ⟨hrun, hvalid, hsymto⟩ := hb
  refine ⟨{ h.sized with beaconSymto := ?_ }, ?_, h.owned⟩
  · show b.symto.toNat ≤ s.par.bcnSymtoMax.toNat
    rw [hsymto]
    exact h.sized.beaconSymto
  · show b.run = true → b.lastRxValid = true → _
    rw [hrun, hvalid]
    exact h.placed

theorem disarm (h : Fit s) (x : TimerName) : Fit { s with t := s.t.disarm x } := by
  refine ⟨{ h.sized with pingNb := h.sized.pingNb }, h.placed, ?_⟩
  cases x with
  | mcslot => nofun
  | _ => exact h.owned

/-- The tracker stops: it knows no beacon any more, and the class B timers are off. -/
theorem stop (h : Fit s) {b : Beacon} {r : Regs} {path : List BeaconState} (hrun : b.run = false)
    (hsymto : b.symto = s.b.symto) : Fit { s with b := b, r := r, t := s.t.disarmClassB, path := path } := by
  refine ⟨{ h.sized with beaconSymto := ?_ }, fun hyes => absurd (hrun.symm.trans hyes) nofun, nofun⟩
  show b.symto.toNat ≤ s.par.bcnSymtoMax.toNat
  rw [hsymto]
  exact h.sized.beaconSymto

theorem haltTracker (h : Fit s) : Fit (haltTracker s) := by
  by_cases hlisten : ClassB.ListensClassB s.r
  · rw [ClassB.haltTracker_listening hlisten]
    have hstop := h.stop (b := { Beacon.reset s.par with symto := s.b.symto })
      (r := { leaveClassB s.r with rxSlot := .none }) (path := s.path ++ [.acquisition]) rfl rfl
    exact hstop.of_sameBut (Same.log (W := []) _ .radioSleep)
  · rw [ClassB.haltTracker_idle hlisten]
    exact h.stop (b := { Beacon.reset s.par with symto := s.b.symto }) (r := leaveClassB s.r)
      (path := s.path ++ [.acquisition]) rfl rfl

theorem lostBeacon (h : Fit s) : Fit (lostBeacon (ClassB.missed s)) :=
  have hstop := h.stop (b := { s.b with state := .lost, run := false, acqPending := false })
    (r := { leaveClassB s.r with rxSlot := .none }) (path := (Machine.lostBeacon (ClassB.missed s)).path) rfl rfl
  hstop.of_sameBut (Same.log (W := []) _ .radioSleep)

end Fit

/-! ### `EnterIdle` -/

theorem Sized.idleStart (h : Sized s) : Sized (Keeps.idleStart s) :=
  { h with entries := fun x => (at4_map s.mc _ x).symm ▸ entryOk_renewEntry s.par s.b.timeS (h.entries x) }

/-- The new offset is of this period, whatever the old one was. -/
theorem Sized.placed_idleStart (h : Sized s) : Placed (Keeps.idleStart s) := by
  intro _ _ hassigned
  have hoffset : (Keeps.idleStart s).p.offset = pingOffset s.par s.b.timeS s.r.devAddr s.p.pingPeriod :=
    if_pos hassigned
  refine ⟨?_, Nat.zero_le _⟩
  rw [hoffset]
  show _ < s.p.pingPeriod.toNat
  rw [h.pingPeriod]
  exact pingOffset_lt_period ..

theorem Sized.enterIdle (h : Sized s) (now : Word) : Fit (enterIdle now s) := by
  have harmed := fit_armMc (h.idleStart.armPing now) (h.placed_idleStart.armPing now) now
  rw [Keeps.enterIdle_eq]
  exact (harmed.of_sameBut (Same.setSlot _ .none)).of_sameBut (Same.log (W := []) _ .radioSleep)

/-! ### The commands -/

theorem fit_sysInit {s : State} (hpar : s.par.Ok) : Post Fit (exec .sysInit s) := by
  obtain ⟨-, -, hbeacon, hping, -⟩ := hpar
  have hentries : ∀ x, entryOk (at4 s.reinit.mc x) := fun x => by
    rw [show s.reinit.mc = mcReset from rfl, SystemState.at4_mcReset]
    exact SystemState.entryOk_reset
  have hreset : Fit s.reinit := ⟨⟨rfl, rfl, hentries, hbeacon, hping⟩, nofun, nofun⟩
  have hcalls : Same [] s.reinit ((((s.reinit.log .regionInitDefaults).log .regionDefaultDatarate).log
      .regionDefaultTxPower).log .radioSleep) :=
    (((Same.log _ _).trans (Same.log _ _)).trans (Same.log _ _)).trans (Same.log _ _)
  exact .done (hreset.of_sameBut hcalls).reply

namespace Fit

theorem classAToB (h : Fit s) (now : Word) : Fit (classAToB now s) := by
  have hB : Fit { s with r := { s.r with deviceClass := .b } } := h.of_sameBut (Keeps.same_setClass s .b)
  unfold Machine.classAToB
  dsimp only
  split
  · exact fit_armMc (hB.armPing now).sized (hB.armPing now).placed now
  · exact hB

theorem sysSetClass (h : Fit s) (cls : BitVec 2) (now : Word) : Post Fit (execSysSetClass cls now s) := by
  have hclose : Fit (closeExchange s) := h.of_sameBut (Same.closeExchange s)
  unfold execSysSetClass
  split
  · exact .raise h.reply
  · next target _ =>
    cases s.r.deviceClass <;> cases target
    case a.b => exact .ite (fun _ => .raise h.reply) fun _ => .done (hclose.classAToB now).reply
    case a.c =>
      exact .ite (fun _ => .raise h.reply) fun _ => .done (hclose.of_sameBut (Keeps.same_classAToC _)).reply
    case b.a => exact .done hclose.haltTracker.reply
    case c.a => exact .done (hclose.of_sameBut (Keeps.same_classCToA _)).reply
    case b.c | c.b => exact .raise h.reply
    case a.a | b.b | c.c => exact .done h.reply

end Fit

theorem Sized.putEntry (h : Sized s) (x : BitVec 2) {e : McEntry} (he : entryOk e) :
    Sized (SystemCommands.putEntry x e s) := by
  refine { h with entries := fun y => ?_ }
  show entryOk (at4 (set4 s.mc x e) y)
  by_cases hy : y = x
  · subst hy
    rwa [at4_set4_same]
  · rw [at4_set4_other _ _ hy]
    exact h.entries y

/-- An entry the multicast timer does not run for. -/
theorem Fit.putEntry (h : Fit s) {x : BitVec 2} {e : McEntry} (he : entryOk e)
    (hother : s.t.mcslot.armed = true → s.r.mcslotOwner ≠ x) : Fit (SystemCommands.putEntry x e s) := by
  refine ⟨h.sized.putEntry x he, h.placed, fun harmed => ?_⟩
  have hslot := h.owned harmed
  have hkept : at4 (set4 s.mc x e) s.r.mcslotOwner = at4 s.mc s.r.mcslotOwner := at4_set4_other _ _ (hother harmed)
  rw [HasSlot, ← hkept] at hslot
  exact hslot

namespace Fit

theorem mcAdd (h : Fit s) (x : BitVec 2) (addr freq : Word) (dr : Byte) (per : BitVec 3) (now : Word) :
    Post Fit (exec (.mcAdd x addr freq dr per now) s) := by
  cases hvalid : (at4 s.mc x).valid with
  | true =>
    rw [SystemCommands.mcAdd_used addr freq dr per now hvalid]
    exact .next h.reply
  | false =>
    have hother : s.t.mcslot.armed = true → s.r.mcslotOwner ≠ x := by
      rintro harmed rfl
      exact absurd (hvalid.symm.trans (h.owned harmed).1) nofun
    have hplaced := h.putEntry (entryOk_newEntry addr freq dr per
      (pingOffset_lt_period s.par s.b.timeS addr per)) hother
    have hput := h.putEntry (entryOk_newEntry addr freq dr per (offset := 0) (pingPeriodOf_bounds per).1) hother
    rw [SystemCommands.mcAdd_free addr freq dr per now hvalid]
    refine .next (reply (st := .ok) (res := []) ?_)
    split
    · split
      · exact fit_armMc hplaced.sized hplaced.placed now
      · exact hplaced
    · exact hput

theorem mcRemove (h : Fit s) (x : BitVec 2) (now : Word) : Post Fit (exec (.mcRemove x now) s) := by
  cases hvalid : (at4 s.mc x).valid with
  | false =>
    rw [SystemCommands.mcRemove_free now hvalid]
    exact .next h.reply
  | true =>
    rw [SystemCommands.mcRemove_used now hvalid]
    refine .next (reply (st := .ok) (res := []) ?_)
    split
    · exact fit_armMc (h.sized.putEntry x SystemState.entryOk_reset) h.placed now
    · next howner => exact h.putEntry SystemState.entryOk_reset fun harmed heq => howner ⟨harmed, heq⟩

theorem bcnAcquire (h : Fit s) (hpar : s.par.Ok) (now : Word) : Post Fit (execBcnAcquire now s) := by
  obtain ⟨-, -, hbeacon, hping, -⟩ := hpar
  have hacquiring : Fit (ClassB.acquiring s) :=
    ⟨{ h.sized with beaconSymto := hbeacon, pingSymto := hping }, fun _ => nofun, h.owned⟩
  exact .ite (fun _ => .raise h.reply) fun _ => .ite (fun _ => .raise h.reply) fun _ =>
    .done (hacquiring.of_sameBut (Same.openBeacon _ _)).reply

theorem bcnRxBeacon (h : Fit s) (hpar : s.par.Ok) (now tBeacon timeS : Word) :
    Post Fit (exec (.bcnRxBeacon now tBeacon timeS) s) := by
  obtain ⟨-, -, hbeacon, hping, -⟩ := hpar
  by_cases hawaits : ClassB.AwaitsBeacon s
  · have hlocked : Sized (ClassB.lockedOn tBeacon timeS s) :=
      { h.sized with beaconSymto := hbeacon, pingSymto := hping }
    rw [ClassB.bcnRxBeacon_locks now tBeacon timeS hawaits]
    exact .next (hlocked.enterIdle now).reply
  · rw [ClassB.bcnRxBeacon_unexpected now tBeacon timeS hawaits]
    exact .next h.reply

/-- A symbol timeout grows up to its bound. -/
theorem expandSymto_le (x cap : Half) (factor : Nat) : (expandSymto x cap factor).toNat ≤ cap.toNat := by
  rw [expandSymto, BitVec.toNat_ofNat]
  exact (Nat.mod_le _ _).trans (Nat.min_le_right ..)

theorem bcnRxTimeout (h : Fit s) (now : Word) : Post Fit (exec (.bcnRxTimeout now) s) := by
  by_cases hawaits : ClassB.AwaitsBeacon s
  · by_cases hgone : ClassB.BeaconGone s now
    · rw [ClassB.bcnRxTimeout_lost hawaits hgone]
      exact .next h.lostBeacon.reply
    · have hextra : Sized ((extrapolate (ClassB.missed s)).enter .reacquisition) :=
        { h.sized with beaconSymto := expandSymto_le _ _ _, pingSymto := expandSymto_le _ _ _ }
      rw [ClassB.bcnRxTimeout_extrapolates hawaits hgone]
      exact .next (hextra.enterIdle now).reply
  · rw [ClassB.bcnRxTimeout_unexpected now hawaits]
    exact .next h.reply

theorem bcnTimer (h : Fit s) (now : Word) : Post Fit (exec (.bcnTimer now) s) := by
  by_cases hstale : s.b.run = false ∨ (s.b.state ≠ .idle ∧ s.b.state ≠ .guard)
  · rw [ClassB.bcnTimer_stale now hstale]
    exact .next h.reply
  · obtain ⟨hrun, hstate⟩ := not_or.1 hstale
    have hrun : s.b.run = true := by simpa using hrun
    by_cases hidle : s.b.state = .idle
    · rw [ClassB.bcnTimer_idle now hrun hidle, RxWindows.regionWindow_state]
      exact .next ⟨{ h.sized with pingNb := h.sized.pingNb }, h.placed, nofun⟩
    · have hguard : s.b.state = .guard := by
        by_contra hno
        exact hstate ⟨hidle, hno⟩
      rw [ClassB.bcnTimer_guard now hrun hguard]
      have hrx : Fit (s.enter .rx) := h.setBeacon rfl
      have hasked := hrx.of_sameBut
        (Same.of_callsOnly (W := []) (regionWindow_frame (.regionBeaconWindow s.b.symto) (s.enter .rx)))
      exact .next (hasked.of_sameBut (Same.openBeacon _ _)).reply

theorem pingSetInfo (h : Fit s) (per : BitVec 3) (now : Word) : Post Fit (exec (.pingSetInfo per now) s) := by
  by_cases hknown : s.b.run = true ∧ s.b.lastRxValid = true
  · rw [SlotTimers.pingSetInfo_placed per now hknown]
    have hplaced : Fit { setPingInfo per s with
        p := { (setPingInfo per s).p with
          offset := pingOffset s.par s.b.timeS s.r.devAddr (pingPeriodOf per), nextN := 0 } } :=
      ⟨{ h.sized with pingNb := rfl, pingPeriod := rfl },
        fun _ _ _ => ⟨pingOffset_lt_period .., Nat.zero_le _⟩, h.owned⟩
    refine .next (reply (st := .ok) (res := []) ?_)
    split
    · exact hplaced.armPing now
    · exact hplaced
  · rw [SlotTimers.pingSetInfo_unplaced per now hknown]
    have hset : Fit (setPingInfo per s) :=
      ⟨{ h.sized with pingNb := rfl, pingPeriod := rfl }, fun hrun hvalid => absurd ⟨hrun, hvalid⟩ hknown, h.owned⟩
    exact .next hset.reply

/-- A slot that is left, used up. -/
theorem toNat_succ_le {n nb : Byte} (h : n.toNat < nb.toNat) : (n + 1).toNat ≤ nb.toNat := by bv_omega

theorem pingTimer (h : Fit s) (now : Word) : Post Fit (exec (.pingTimer now) s) := by
  by_cases hready : SlotTimers.PingReady s
  · obtain ⟨hrun, -, -, hassigned, hleft⟩ := id hready
    have htaken : Fit (SlotTimers.pingTaken s) :=
      ⟨{ h.sized with pingNb := h.sized.pingNb },
        fun _ hvalid _ => ⟨(h.placed hrun hvalid hassigned).1, toNat_succ_le hleft⟩, h.owned⟩
    by_cases hy : SlotTimers.PingYields s
    · rw [SlotTimers.pingTimer_yields now hready hy]
      exact .next (htaken.armPing now).reply
    · rw [SlotTimers.pingTimer_opens now hready hy]
      exact .next ((htaken.openSlot _ _ _).armPing now).reply
  · rw [SlotTimers.pingTimer_stale now hready]
    exact .next h.reply

theorem sized_mcTaken (h : Fit s) (hready : SlotTimers.McReady s) : Sized (SlotTimers.mcTaken s) := by
  obtain ⟨-, -, -, hvalid, hleft⟩ := hready
  obtain ⟨hnb, hperiod, hoffset, -⟩ := (h.sized.entries s.r.mcslotOwner).2 hvalid
  refine { h.sized with entries := fun x => ?_ }
  show entryOk (at4 (set4 s.mc s.r.mcslotOwner _) x)
  by_cases hx : x = s.r.mcslotOwner
  · subst hx
    rw [at4_set4_same]
    exact ⟨fun hno => absurd (hvalid.symm.trans hno) nofun, fun _ => ⟨hnb, hperiod, hoffset, toNat_succ_le hleft⟩⟩
  · rw [at4_set4_other _ _ hx]
    exact h.sized.entries x

theorem mcslotTimer (h : Fit s) (now : Word) : Post Fit (exec (.mcslotTimer now) s) := by
  by_cases hready : SlotTimers.McReady s
  · have htaken := h.sized_mcTaken hready
    by_cases hy : SlotTimers.McYields s
    · rw [SlotTimers.mcslotTimer_yields now hready hy]
      exact .next (fit_armMc htaken h.placed now).reply
    · have hplaced : Placed (SlotTimers.mcTaken s) := h.placed
      rw [SlotTimers.mcslotTimer_opens now hready hy]
      exact .next (fit_armMc (htaken.openSlot _ _ _) (hplaced.openSlot _ _ _) now).reply
  · rw [SlotTimers.mcslotTimer_stale now hready]
    exact .next h.reply

theorem setEvt (h : Fit s) (evt : BitVec 16) : Fit { s with evt := evt } := h.of_sameBut (Keeps.same_setEvt s evt)

theorem evtPost (h : Fit s) (n : BitVec 4) (clock : Word) : Post Fit (execEvtPost n clock s) := by
  refine .ite (fun _ => .next (h.setEvt _)) fun _ => ?_
  split
  · exact .next h
  · next x _ => exact .ite (fun _ => .next ((h.disarm x).setEvt _)) fun _ => .next h

end Fit

theorem fit_exec {i : Instr} {s t : State} (hpar : s.par.Ok) (h : Fit s) (ht : exec i s = .next t) : Fit t := by
  cases i with
  | sysInit => exact fit_sysInit hpar t ht
  | sysSetClass cls now => exact h.sysSetClass cls now t ht
  | mcAdd x addr freq dr per now => exact h.mcAdd x addr freq dr per now t ht
  | mcRemove x now => exact h.mcRemove x now t ht
  | bcnAcquire now => exact h.bcnAcquire hpar now t ht
  | bcnRxBeacon now tBeacon timeS => exact h.bcnRxBeacon hpar now tBeacon timeS t ht
  | bcnRxTimeout now => exact h.bcnRxTimeout now t ht
  | bcnTimer now => exact h.bcnTimer now t ht
  | bcnHalt => exact Post.done (Q := Fit) h.haltTracker.reply t ht
  | pingSetInfo per now => exact h.pingSetInfo per now t ht
  | pingTimer now => exact h.pingTimer now t ht
  | mcslotTimer now => exact h.mcslotTimer now t ht
  | evtPost n clock => exact h.evtPost n clock t ht
  | _ =>
    exact h.of_same (exec_same ht .env rfl) (exec_same ht .tracker rfl) (exec_same ht .slots rfl)
      (exec_same ht .timers rfl)

/-- Settles O11: `fit_exec`; a store of the HOST and an answer to no command leave the slots alone. -/
theorem stepKeepsSlots : Obligations.StepKeepsSlots := fun s t hs => by
  rw [invSlots_iff] at hs ⊢
  exact CoreInvariant.step_keeps (I := Fit)
    (fun s port h => ⟨{ h.sized with pingNb := h.sized.pingNb }, h.placed, h.owned⟩)
    (fun _ _ _ hpar h ht => fit_exec hpar h ht) (fun _ _ _ h ht => h.of_sameBut (CoreInvariant.hostWrite_same ht))
    (fun _ _ _ h ht => h.of_sameBut (CoreInvariant.answerReject_same ht)) hs

end Sys2Proof.Proofs.SlotInvariant
end

section
/-! How every command ends (30_encoding.md R60, 20_memory.md R53), and that the instructions that do not call the Secure
Element neither read nor write a key (20_memory.md R52): each construct they are made of goes the same way, whatever the
keys are. -/

namespace Sys2Proof.Proofs.CommandsAndKeys

open Sys2Proof Sys2Proof.Machine
open Sys2Proof.Proofs.Footprint

/-! ### A command answers, or reads a byte without a value -/

/-- The outcome is an answer, or the fault of a command that reads buffers. -/
def Replies (reads : Bool) (o : Out) : Prop :=
  (∃ u st res, o = .next (State.reply u st res)) ∨ (o = .fault .unwrittenByte ∧ reads = true)

namespace Replies

variable {reads : Bool} {o o' : Out} {s : State}

theorem reply {st : Status} {res : List Byte} : Replies reads (.next (s.reply st res)) := .inl ⟨s, st, res, rfl⟩

theorem raise {st : Status} : Replies reads (raise st s) := reply

theorem done {res : List Byte} : Replies reads (done res s) := reply

theorem ite {p : Prop} {_ : Decidable p} (h : Replies reads o) (h' : Replies reads o') :
    Replies reads (if p then o else o') := by
  split
  · exact h
  · exact h'

theorem orFault {α : Type} {a : Option α} {k : α → Out} (hk : ∀ x, Replies true (k x)) :
    Replies true (Machine.orFault a k) := by
  cases a with
  | none => exact .inr ⟨rfl, rfl⟩
  | some x => exact hk x

theorem orSeFailed {α : Type} {r : Option α × State} {k : α → State → Out} (hk : ∀ x s', Replies reads (k x s')) :
    Replies reads (Machine.orSeFailed r k) := by
  obtain ⟨_ | x, s'⟩ := r
  · exact raise
  · exact hk x s'

theorem withDataFrame {k : List Byte → DataFrame → Out} (hk : ∀ b f, Replies true (k b f)) :
    Replies true (Machine.withDataFrame s k) :=
  ite raise (orFault fun _ => ite raise (orFault fun b => hk b _))

theorem serialize {cap : Byte} {msg : List Byte} : Replies reads (Machine.serialize cap msg s) := ite raise done

theorem mibSet (id : Byte) (v : Word) (s : State) : Replies false (execMibSet id v s) := by
  unfold execMibSet
  split
  · exact raise
  · split
    · exact done
    · split
      · exact raise
      · exact done

theorem mibGet (id : Byte) (s : State) : Replies false (execMibGet id s) := by
  unfold execMibGet
  split
  · exact raise
  · exact done

theorem sysSetClass (cls : BitVec 2) (now : Word) (s : State) : Replies false (execSysSetClass cls now s) := by
  unfold execSysSetClass
  split
  · exact raise
  · next target _ =>
    cases s.r.deviceClass <;> cases target
    case a.b | a.c => exact ite raise done
    case b.c | c.b => exact raise
    all_goals exact done

theorem frameMatchAddr (s : State) : Replies false (execFrameMatchAddr s) := by
  unfold execFrameMatchAddr
  split
  · exact ite raise done
  · exact ite done raise

theorem decryptBlocks {k : List Byte → State → Out} (hk : ∀ pl s, Replies true (k pl s)) (slot : KeySlot)
    (n i : Nat) (pl : List Byte) (s : State) : Replies true (Machine.decryptBlocks slot n i pl s k) := by
  induction n generalizing i pl s with
  | zero => exact hk pl s
  | succ n ih => exact orFault fun _ => orSeFailed fun _ s' => ih _ _ s'

theorem derives (l : List (List Byte × KeySlot × KeySlot)) (s : State) :
    Replies false (Machine.orSeFailed (deriveAll l s) fun _ s => Machine.done [] s) :=
  orSeFailed fun _ _ => done

theorem dcSchedule (now : Word) (allow : Bool) (s : State) : Replies false (execDcSchedule now allow s) := by
  unfold execDcSchedule
  dsimp only
  split
  · exact raise
  · exact ite done (ite done reply)

theorem rxwOpen (win2 : Bool) (s : State) : Replies false (execRxwOpen win2 s) := by
  rw [RxWindows.execRxwOpen_eq]
  exact ite done raise

theorem exec (i : Instr) (s : State) (hport : portOf i = .command) : Replies (readsBuffers i) (exec i s) := by
  cases i with
  | sysInit => exact done
  | mibGet => exact mibGet _ s
  | mibSet => exact mibSet _ _ s
  | sysSetClass => exact sysSetClass _ _ s
  | evtDrain => exact done
  | mcAdd => exact ite raise (ite done done)
  | mcRemove => exact ite raise done
  | serJoinreq => exact ite raise serialize
  | serRejoin => exact ite raise (ite serialize (ite serialize raise))
  | serJoinacc => exact ite raise (ite raise (ite serialize serialize))
  | serData => exact ite raise (ite raise (ite raise (orFault fun _ => serialize)))
  | parseJoinreq => exact ite raise (orFault fun _ => done)
  | parseRejoin =>
    exact ite raise (orFault fun _ => ite (orFault fun _ => done) (ite (orFault fun _ => done) raise))
  | parseJoinacc => exact ite raise (orFault fun _ => done)
  | parseData => exact withDataFrame fun _ _ => done
  | frameClassify => exact ite raise (orFault fun _ => ite raise done)
  | frameMatchAddr => exact frameMatchAddr s
  | framePlaceCmds => exact ite done (ite done (ite raise reply))
  | portCheck => exact ite done (ite done raise)
  | secUplink =>
    exact ite raise (ite raise (ite raise (ite raise (ite raise (orFault fun _ =>
      orSeFailed fun _ _ => orSeFailed fun _ _ => orSeFailed fun _ _ => done)))))
  | secDownlink =>
    exact ite raise (ite raise (withDataFrame fun _ _ => ite raise (ite raise (ite raise (ite raise
      (orSeFailed fun _ _ => ite raise (orSeFailed fun _ _ => orSeFailed fun _ _ => done)))))))
  | secJoinreq => exact ite raise (ite raise (orSeFailed fun _ _ => done))
  | secRejoin =>
    exact ite raise (ite raise (ite (ite raise (orSeFailed fun _ _ => done))
      (ite raise (ite raise (orSeFailed fun _ _ => done)))))
  | secJoinacc =>
    exact ite raise (ite raise (ite raise (orFault fun _ => decryptBlocks (fun _ _ =>
      orSeFailed fun _ _ => ite raise (orSeFailed fun _ _ => done)) _ _ _ _ s)))
  | secDeriveSession | secDeriveMc | secDeriveLifetime => exact derives _ s
  | fcntNextUp => exact ite raise done
  | fcntReconstruct => exact ite raise (ite raise (ite done (ite raise (ite raise (ite raise done)))))
  | fcntReset => exact ite done (ite done (ite done raise))
  | dcTxUpdate => exact ite raise done
  | dcSchedule => exact dcSchedule _ _ s
  | adrNext | adrUplinkEnd => exact ite done done
  | ackStart => exact done
  | ackTimeout => exact ite raise (ite reply done)
  | ackReceived => exact ite raise done
  | rxwTxDone => exact done
  | rxwOpen => exact rxwOpen _ s
  | rxwRxDone => exact ite raise done
  | bcnAcquire => exact ite raise (ite raise done)
  | bcnRxBeacon => exact ite raise done
  | bcnRxTimeout => exact ite raise (ite done done)
  | bcnTimer => exact ite raise (ite done (ite done raise))
  | bcnHalt => exact done
  | pingSetInfo => exact ite done done
  | pingTimer | mcslotTimer => exact ite raise (ite done done)
  | slotRxDone => exact ite raise done
  | _ => cases hport

end Replies

/-- A payload byte without a value stops `SER.DATA`. -/
theorem serData_unwritten {cap : Byte} {s : State} (hread : s.read .pld 0 s.fd.pldLen.toNat = none)
    (hport : s.fd.pldLen = 0 ∨ s.fd.fportPresent = true) (hcap : cap.toNat ≤ s.par.phyMax)
    (hfits : s.fd.dataLen ≤ cap.toNat) : exec (.serData cap) s = .fault .unwrittenByte := by
  have hpos : 1 ≤ s.fd.dataLen := by
    unfold FrameDesc.dataLen
    omega
  have hlegal : capOk s.par cap = true := Serialize.capOk_iff.2 ⟨hpos.trans hfits, hcap⟩
  have hnoport : ¬ (s.fd.pldLen ≠ 0 ∧ s.fd.fportPresent = false) := by
    rintro ⟨h0, hf⟩
    exact hport.elim h0 fun h => absurd (h.symm.trans hf) nofun
  rw [Serialize.exec_serData, execSerData, if_neg (by simp [hlegal]), if_neg hnoport, if_neg (Nat.not_lt.2 hfits),
    hread]
  rfl

/-- Settles O14: `Replies.exec`; the ports and the parameters are no instruction's to write. -/
theorem commandsAlwaysAnswer : Obligations.CommandsAlwaysAnswer := by
  refine ⟨fun i s hport => ?_, fun cap s hread hpld hcap hfits => serData_unwritten hread hpld hcap hfits,
    fun s off n => ⟨?_, ?_⟩, fun st => ?_⟩
  · rcases Replies.exec i s hport with ⟨u, st, res, ht⟩ | hfault
    · have henv := exec_same ht .env (by cases i <;> rfl)
      simp only [Aspect.same, Prod.mk.injEq] at henv
      exact .inl ⟨_, ht, rfl, henv.1, henv.2⟩
    · exact .inr hfault
  · rw [State.read, readCells_isSome rfl]
    rfl
  · rw [State.read, readCells_isSome rfl]
    rfl
  · cases st <;> decide

/-! ### The keys play no part -/

/-- The state with other keys. -/
def withKeys (k : KeyStore) (s : State) : State := { s with se := k }

/-- The outcome with other keys in its next state. -/
def keyed (k : KeyStore) : Out → Out
  | .next t => .next (withKeys k t)
  | .fault f => .fault f
  | .refused r => .refused r

/-- From the state with other keys the outcome `o'` is the outcome `o`, with those keys. -/
def Blind (k : KeyStore) (o o' : Out) : Prop := o' = keyed k o

/-! What is read and asked on the way. -/

section

variable (k : KeyStore) (s : State)

theorem regionValidate_withKeys (kind : ParamKind) (v : Byte) :
    regionValidate kind v (withKeys k s) = ((regionValidate kind v s).1, withKeys k (regionValidate kind v s).2) := by
  simp only [regionValidate, withKeys, State.log]
  cases s.script.validate <;> rfl

theorem regionNextChannel_withKeys (now : Word) (dr : Byte) (joined : Bool) (wait : Word) :
    regionNextChannel now dr joined wait (withKeys k s) = ((regionNextChannel now dr joined wait s).1,
      withKeys k (regionNextChannel now dr joined wait s).2) := by
  simp only [regionNextChannel, withKeys, State.log]
  cases s.script.nextChannel <;> rfl

theorem regionAdrNext_withKeys (cnt : Word) (dr pw : Byte) :
    regionAdrNext cnt dr pw (withKeys k s) = ((regionAdrNext cnt dr pw s).1,
      withKeys k (regionAdrNext cnt dr pw s).2) := by
  simp only [regionAdrNext, withKeys, State.log]
  cases s.script.adrNext <;> rfl

theorem regionNextLowerDr_withKeys (dr : Byte) :
    regionNextLowerDr dr (withKeys k s) = ((regionNextLowerDr dr s).1, withKeys k (regionNextLowerDr dr s).2) := by
  simp only [regionNextLowerDr, withKeys, State.log]
  cases s.script.lowerDr <;> rfl

theorem regionWindow_withKeys (c : Call) :
    regionWindow c (withKeys k s) = ((regionWindow c s).1, withKeys k (regionWindow c s).2) := by
  simp only [regionWindow, withKeys, State.log]
  cases s.script.window <;> rfl

theorem regionRxConfig_withKeys (slot : RxSlot) (arg : Byte) (mcPhy : Option (Word × Byte)) :
    regionRxConfig slot arg mcPhy (withKeys k s) = ((regionRxConfig slot arg mcPhy s).1,
      withKeys k (regionRxConfig slot arg mcPhy s).2) := by
  simp only [regionRxConfig, withKeys, State.log]
  cases s.script.rxConfig <;> rfl

/-! The procedures. -/

theorem ite_withKeys {p : Prop} {_ : Decidable p} {a b a' b' : State} (ha : a' = withKeys k a)
    (hb : b' = withKeys k b) :
    (if p then a' else b') = withKeys k (if p then a else b) := by
  split
  · exact ha
  · exact hb

theorem listen_withKeys (slot : RxSlot) (arg : Byte) (mcPhy : Option (Word × Byte)) (limit : Word) :
    listen slot arg mcPhy limit (withKeys k s) = withKeys k (listen slot arg mcPhy limit s) :=
  congrArg (fun r : Bool × State => r.2.log (.radioReceive limit)) (regionRxConfig_withKeys k s slot arg mcPhy)

theorem openBeacon_withKeys (limit : Word) : openBeacon limit (withKeys k s) = withKeys k (openBeacon limit s) :=
  listen_withKeys k ((s.setSlot .beacon).log .radioStandby) .beacon 0 none limit

theorem openSlot_withKeys (slot : RxSlot) (arg : Byte) (mcPhy : Option (Word × Byte)) :
    openSlot slot arg mcPhy (withKeys k s) = withKeys k (openSlot slot arg mcPhy s) :=
  (congrArg (fun r : (Word × Word) × State => listen slot arg mcPhy r.1.2 ((r.2.setSlot slot).log .radioStandby))
    (regionWindow_withKeys k s (.regionPingWindow s.p.symto))).trans (listen_withKeys k
      (((regionWindow (.regionPingWindow s.p.symto) s).2.setSlot slot).log .radioStandby) slot arg mcPhy _)

theorem restOrListen_withKeys : restOrListen (withKeys k s) = withKeys k (restOrListen s) :=
  ite_withKeys k (listen_withKeys k (s.setSlot .classC) .classC s.r.chDatarate none 0) rfl

theorem armPing_withKeys (now : Word) : armPing now (withKeys k s) = withKeys k (armPing now s) := by
  by_cases hoff : s.r.deviceClass ≠ .b ∨ s.p.assigned = false
  · rw [Slots.armPing_off now hoff]
    exact Slots.armPing_off (s := withKeys k s) now hoff
  · simp only [not_or, not_not, Bool.not_eq_false] at hoff
    obtain ⟨hclass, hassigned⟩ := hoff
    rw [Slots.armPing_on now hclass hassigned]
    exact Slots.armPing_on (s := withKeys k s) now hclass hassigned

theorem armMc_withKeys (now : Word) : armMc now (withKeys k s) = withKeys k (armMc now s) := by
  by_cases hclass : s.r.deviceClass = .b
  · cases hfirst : firstEntry (s.mc.map (skipEntry s now)) with
    | none =>
      rw [Slots.armMc_none now hclass hfirst]
      exact Slots.armMc_none (s := withKeys k s) now hclass hfirst
    | some first =>
      rw [Slots.armMc_some now hclass hfirst]
      exact Slots.armMc_some (s := withKeys k s) now hclass hfirst
  · rw [Slots.armMc_off now hclass]
    exact Slots.armMc_off (s := withKeys k s) now hclass

theorem enterIdle_withKeys (now : Word) : enterIdle now (withKeys k s) = withKeys k (enterIdle now s) := by
  have hstart : Keeps.idleStart (withKeys k s) = withKeys k (Keeps.idleStart s) := rfl
  rw [Keeps.enterIdle_eq, hstart, armPing_withKeys, armMc_withKeys]
  rfl

theorem haltTracker_withKeys : haltTracker (withKeys k s) = withKeys k (haltTracker s) := by
  by_cases hlisten : ClassB.ListensClassB s.r
  · rw [ClassB.haltTracker_listening hlisten]
    exact ClassB.haltTracker_listening (s := withKeys k s) hlisten
  · rw [ClassB.haltTracker_idle hlisten]
    exact ClassB.haltTracker_idle (s := withKeys k s) hlisten

theorem ackStep_withKeys : ackStep (withKeys k s) = withKeys k (ackStep s) :=
  ite_withKeys k (congrArg (fun r : Byte × State => { r.2 with r := { r.2.r with chDatarate := r.1 } })
    (regionNextLowerDr_withKeys k s s.r.chDatarate)) rfl

theorem classAToB_withKeys (now : Word) : classAToB now (withKeys k s) = withKeys k (classAToB now s) := by
  have hB : armMc now (armPing now (withKeys k { s with r := { s.r with deviceClass := .b } }))
      = withKeys k (armMc now (armPing now { s with r := { s.r with deviceClass := .b } })) := by
    rw [armPing_withKeys, armMc_withKeys]
  exact ite_withKeys k hB rfl

theorem classAToC_withKeys : classAToC (withKeys k s) = withKeys k (classAToC s) :=
  listen_withKeys k (State.log { s with r := { s.r with deviceClass := .c, rxSlot := .classC } } .radioStandby)
    .classC s.r.chDatarate none 0

end

namespace Blind

variable {k : KeyStore} {s u : State} {o o' : Out}

theorem next : Blind k (.next u) (.next (withKeys k u)) := rfl

theorem raise {st : Status} : Blind k (raise st u) (raise st (withKeys k u)) := rfl

theorem done {res : List Byte} : Blind k (done res u) (done res (withKeys k u)) := rfl

theorem done_of {res : List Byte} {u' : State} (h : u' = withKeys k u) :
    Blind k (Machine.done res u) (Machine.done res u') := by
  rw [h]
  exact done

theorem fault {f : Fault} : Blind k (.fault f) (.fault f) := rfl

theorem ite {p : Prop} {_ : Decidable p} {a b a' b' : Out} (ha : Blind k a a') (hb : Blind k b b') :
    Blind k (if p then a else b) (if p then a' else b') := by
  split
  · exact ha
  · exact hb

theorem orFault {α : Type} {x : Option α} {f f' : α → Out} (h : ∀ v, Blind k (f v) (f' v)) :
    Blind k (Machine.orFault x f) (Machine.orFault x f') := by
  cases x with
  | none => exact fault
  | some v => exact h v

theorem withDataFrame {f f' : List Byte → DataFrame → Out} (h : ∀ b d, Blind k (f b d) (f' b d)) :
    Blind k (Machine.withDataFrame s f) (Machine.withDataFrame (withKeys k s) f') :=
  ite raise (orFault fun _ => ite raise (orFault fun b => h b _))

theorem serialize {cap : Byte} {msg : List Byte} :
    Blind k (Machine.serialize cap msg s) (Machine.serialize cap msg (withKeys k s)) := ite raise done

/-! ### The commands -/

theorem armPing_of {now : Word} {u' : State} (h : u' = withKeys k u) :
    armPing now u' = withKeys k (armPing now u) := by
  rw [h, armPing_withKeys]

theorem armMc_of {now : Word} {u' : State} (h : u' = withKeys k u) : armMc now u' = withKeys k (armMc now u) := by
  rw [h, armMc_withKeys]

theorem restOrListen_of {u' : State} (h : u' = withKeys k u) : restOrListen u' = withKeys k (restOrListen u) := by
  rw [h, restOrListen_withKeys]

theorem mibGet (id : Byte) (s : State) : Blind k (execMibGet id s) (execMibGet id (withKeys k s)) := by
  have hread : readRegister (withKeys k s) id.toNat = readRegister s id.toNat := rfl
  unfold execMibGet
  rw [hread]
  cases readRegister s id.toNat with
  | none => exact raise
  | some v => exact done

theorem mibSet (id : Byte) (v : Word) (s : State) : Blind k (execMibSet id v s) (execMibSet id v (withKeys k s)) := by
  have hr : (withKeys k s).r = s.r := rfl
  unfold execMibSet
  rw [hr]
  cases writeRegister s.r id.toNat v with
  | none => exact raise
  | some r =>
    cases validatedKind id.toNat with
    | none => exact done (u := { s with r := r })
    | some kind =>
      simp only [regionValidate_withKeys]
      generalize regionValidate kind (v.setWidth 8) s = asked
      obtain ⟨_ | _, u⟩ := asked
      · exact raise
      · exact done (u := { u with r := r })

theorem sysSetClass (cls : BitVec 2) (now : Word) (s : State) :
    Blind k (execSysSetClass cls now s) (execSysSetClass cls now (withKeys k s)) := by
  have hclass : (withKeys k s).r.deviceClass = s.r.deviceClass := rfl
  unfold execSysSetClass
  cases classOf cls with
  | none => exact raise
  | some target =>
    simp only [hclass]
    cases s.r.deviceClass <;> cases target
    case a.b => exact ite raise (done_of (classAToB_withKeys k (closeExchange s) now))
    case a.c => exact ite raise (done_of (classAToC_withKeys k (closeExchange s)))
    case b.a => exact done_of (haltTracker_withKeys k (closeExchange s))
    case c.a => exact done
    case b.c | c.b => exact raise
    case a.a | b.b | c.c => exact done

theorem mcAdd (h : BitVec 2) (addr freq : Word) (dr : Byte) (per : BitVec 3) (now : Word) (s : State) :
    Blind k (execMcAdd h addr freq dr per now s) (execMcAdd h addr freq dr per now (withKeys k s)) :=
  ite raise (ite (done_of (ite_withKeys k (armMc_of rfl) rfl)) done)

theorem mcRemove (h : BitVec 2) (now : Word) (s : State) :
    Blind k (execMcRemove h now s) (execMcRemove h now (withKeys k s)) :=
  ite raise (done_of (ite_withKeys k (armMc_of rfl) rfl))

theorem frameMatchAddr (s : State) : Blind k (execFrameMatchAddr s) (execFrameMatchAddr (withKeys k s)) := by
  have hmatch : mcMatch (withKeys k s).mc (withKeys k s).fd.devAddr = mcMatch s.mc s.fd.devAddr := rfl
  unfold execFrameMatchAddr
  rw [hmatch]
  cases mcMatch s.mc s.fd.devAddr with
  | none => exact ite done raise
  | some h => exact ite raise done

theorem dcSchedule (now : Word) (allow : Bool) (s : State) :
    Blind k (execDcSchedule now allow s) (execDcSchedule now allow (withKeys k s)) := by
  have hr : (withKeys k s).r = s.r := rfl
  unfold execDcSchedule
  simp only [hr, regionNextChannel_withKeys]
  generalize regionNextChannel now s.r.chDatarate s.r.joined (aggWait s.r now) s = asked
  obtain ⟨_ | ⟨channel, wait⟩, u⟩ := asked
  · exact raise
  · exact ite done (ite done next)

theorem adrNext (s : State) : Blind k (execAdrNext s) (execAdrNext (withKeys k s)) := by
  refine ite done ?_
  have hr : (withKeys k s).r = s.r := rfl
  simp only [hr, regionAdrNext_withKeys]
  exact done

theorem ackTimeout (s : State) : Blind k (execAckTimeout s) (execAckTimeout (withKeys k s)) := by
  refine ite raise (ite next ?_)
  have hstep := ackStep_withKeys k { s with r := { s.r with ackRetryCnt := s.r.ackRetryCnt + 1 } }
  exact congrArg (fun u : State => Machine.done [0, u.r.ackRetryCnt.setWidth 8, 0, u.r.chDatarate] u) hstep

theorem rxwTxDone (now : Word) (confirmed : Bool) (s : State) :
    Blind k (Machine.exec (.rxwTxDone now confirmed) s) (Machine.exec (.rxwTxDone now confirmed) (withKeys k s)) := by
  have hrx1 : RxWindows.rx1Asked (withKeys k s)
      = ((RxWindows.rx1Asked s).1, withKeys k (RxWindows.rx1Asked s).2) := regionWindow_withKeys k s _
  have hrx2 : RxWindows.rx2Asked (withKeys k s)
      = ((RxWindows.rx2Asked s).1, withKeys k (RxWindows.rx2Asked s).2) := by
    rw [RxWindows.rx2Asked, hrx1]
    exact regionWindow_withKeys k _ _
  have harm : ∀ t1 t2 u, restOrListen (armRx t1 t2 confirmed (withKeys k u))
      = withKeys k (restOrListen (armRx t1 t2 confirmed u)) := fun t1 t2 u =>
    restOrListen_withKeys k (armRx t1 t2 confirmed u)
  rw [RxWindows.rxwTxDone_eq, RxWindows.rxwTxDone_eq, hrx1, hrx2, harm]
  exact next

theorem rxwOpen (win2 : Bool) (s : State) : Blind k (execRxwOpen win2 s) (execRxwOpen win2 (withKeys k s)) := by
  have hwindow : RxWindows.openWindow win2 (withKeys k s)
      = ((RxWindows.openWindow win2 s).1, withKeys k (RxWindows.openWindow win2 s).2) :=
    regionWindow_withKeys k s _
  have hconfig : RxWindows.openConfig win2 (withKeys k s)
      = ((RxWindows.openConfig win2 s).1, withKeys k (RxWindows.openConfig win2 s).2) := by
    rw [RxWindows.openConfig, hwindow]
    exact regionRxConfig_withKeys k ((RxWindows.openWindow win2 s).2.log .radioStandby) _ _ _
  rw [RxWindows.execRxwOpen_eq, RxWindows.execRxwOpen_eq, hwindow, hconfig]
  exact ite done raise

theorem rxwRxDone (outcome : BitVec 2) (s : State) :
    Blind k (execRxwRxDone outcome s) (execRxwRxDone outcome (withKeys k s)) :=
  ite raise (done_of (restOrListen_of rfl))

theorem bcnAcquire (now : Word) (s : State) : Blind k (execBcnAcquire now s) (execBcnAcquire now (withKeys k s)) :=
  ite raise (ite raise (done_of (openBeacon_withKeys k (ClassB.acquiring s) _)))

theorem bcnRxBeacon (now tBeacon timeS : Word) (s : State) :
    Blind k (execBcnRxBeacon now tBeacon timeS s) (execBcnRxBeacon now tBeacon timeS (withKeys k s)) :=
  ite raise (done_of (enterIdle_withKeys k (ClassB.lockedOn tBeacon timeS s) now))

theorem bcnRxTimeout (now : Word) (s : State) :
    Blind k (execBcnRxTimeout now s) (execBcnRxTimeout now (withKeys k s)) :=
  ite raise (ite done
    (done_of (enterIdle_withKeys k ((extrapolate (ClassB.missed s)).enter .reacquisition) now)))

theorem bcnTimer (now : Word) (s : State) : Blind k (execBcnTimer now s) (execBcnTimer now (withKeys k s)) := by
  refine ite raise (ite (done_of ?_) (ite (done_of ?_) raise))
  · have hasked := regionWindow_withKeys k (ClassB.guarding s) (.regionBeaconWindow s.b.symto)
    exact congrArg (fun r : (Word × Word) × State => { r.2 with
      t := r.2.t.arm .beacon (r.2.b.epoch + BitVec.ofNat 32 r.2.par.beaconInterval + r.1.1) }) hasked
  · have hasked := regionWindow_withKeys k (s.enter .rx) (.regionBeaconWindow s.b.symto)
    exact (congrArg (fun r : (Word × Word) × State => openBeacon r.1.2 r.2) hasked).trans
      (openBeacon_withKeys k _ _)

theorem pingSetInfo (per : BitVec 3) (now : Word) (s : State) :
    Blind k (execPingSetInfo per now s) (execPingSetInfo per now (withKeys k s)) :=
  ite (done_of (ite_withKeys k (armPing_of rfl) rfl)) done

theorem pingTimer (now : Word) (s : State) : Blind k (execPingTimer now s) (execPingTimer now (withKeys k s)) := by
  have hopens : armPing now (openSlot .pingSlot 0 none (withKeys k (SlotTimers.pingTaken s)))
      = withKeys k (armPing now (openSlot .pingSlot 0 none (SlotTimers.pingTaken s))) := by
    rw [openSlot_withKeys, armPing_withKeys]
  exact ite raise (ite (done_of (armPing_withKeys k (SlotTimers.pingTaken s) now)) (done_of hopens))

theorem mcslotTimer (now : Word) (s : State) :
    Blind k (execMcslotTimer now s) (execMcslotTimer now (withKeys k s)) := by
  have hopens : ∀ arg phy, armMc now (openSlot .mcSlot arg phy (withKeys k (SlotTimers.mcTaken s)))
      = withKeys k (armMc now (openSlot .mcSlot arg phy (SlotTimers.mcTaken s))) := fun arg phy => by
    rw [openSlot_withKeys, armMc_withKeys]
  exact ite raise (ite (done_of (armMc_withKeys k (SlotTimers.mcTaken s) now)) (done_of (hopens _ _)))

theorem evtPost (n : BitVec 4) (clock : Word) (s : State) :
    Blind k (execEvtPost n clock s) (execEvtPost n clock (withKeys k s)) := by
  refine ite next ?_
  cases timerOfBit n with
  | none => exact next
  | some x => exact ite next next

theorem exec (i : Instr) (s : State) (hse : callsSe i = false) : Blind k (exec i s) (exec i (withKeys k s)) := by
  cases i with
  | sysInit | evtDrain => exact done
  | mibGet => exact mibGet _ s
  | mibSet => exact mibSet _ _ s
  | sysSetClass => exact sysSetClass _ _ s
  | mcAdd => exact mcAdd _ _ _ _ _ _ s
  | mcRemove => exact mcRemove _ _ s
  | serJoinreq => exact ite raise serialize
  | serRejoin => exact ite raise (ite serialize (ite serialize raise))
  | serJoinacc => exact ite raise (ite raise (ite serialize serialize))
  | serData => exact ite raise (ite raise (ite raise (orFault fun _ => serialize)))
  | parseJoinreq => exact ite raise (orFault fun _ => done)
  | parseRejoin =>
    exact ite raise (orFault fun _ => ite (orFault fun _ => done) (ite (orFault fun _ => done) raise))
  | parseJoinacc => exact ite raise (orFault fun _ => done)
  | parseData => exact withDataFrame fun _ _ => done
  | frameClassify => exact ite raise (orFault fun _ => ite raise done)
  | frameMatchAddr => exact frameMatchAddr s
  | framePlaceCmds => exact ite done (ite done (ite raise next))
  | portCheck => exact ite done (ite done raise)
  | fcntNextUp => exact ite raise done
  | fcntReconstruct => exact ite raise (ite raise (ite done (ite raise (ite raise (ite raise done)))))
  | fcntReset => exact ite done (ite done (ite done raise))
  | dcTxUpdate => exact ite raise done
  | dcSchedule => exact dcSchedule _ _ s
  | adrNext => exact adrNext s
  | adrUplinkEnd => exact ite done done
  | ackStart => exact done
  | ackTimeout => exact ackTimeout s
  | ackReceived => exact ite raise done
  | rxwTxDone => exact rxwTxDone _ _ s
  | rxwOpen => exact rxwOpen _ s
  | rxwRxDone => exact rxwRxDone _ s
  | bcnAcquire now => exact bcnAcquire now s
  | bcnRxBeacon => exact bcnRxBeacon _ _ _ s
  | bcnRxTimeout => exact bcnRxTimeout _ s
  | bcnTimer now => exact bcnTimer now s
  | bcnHalt => exact done_of (haltTracker_withKeys k s)
  | pingSetInfo => exact pingSetInfo _ _ s
  | pingTimer => exact pingTimer _ s
  | mcslotTimer => exact mcslotTimer _ s
  | slotRxDone => exact ite raise done
  | evtPost => exact evtPost _ _ s
  | frameJoinRequest | frameRejoin02 | frameRejoin1 | frameJoinAccept | frameData => exact ite fault next
  | mhdr | mtypeJoinRequest | mtypeJoinAccept | mtypeUnconfirmedDataUp | mtypeUnconfirmedDataDown
  | mtypeConfirmedDataUp | mtypeConfirmedDataDown | mtypeRejoinRequest | mtypeProprietary | dlsettings | fctrl =>
    exact next
  | _ => cases hse

end Blind

/-- Settles O13: with its own keys put back (`Blind.exec` for `s.se`) a state shows that it keeps them. -/
theorem otherInstructionsIgnoreKeys : Obligations.OtherInstructionsIgnoreKeys := by
  intro i s k hse
  have hother : ∀ k, exec i (withKeys k s) = keyed k (exec i s) := fun k => Blind.exec i s hse
  refine ⟨fun t ht => ⟨?_, ?_⟩, fun f hf => ?_⟩
  · have hown := hother s.se
    rw [show withKeys s.se s = s from rfl, ht] at hown
    have heq : t = withKeys s.se t := Host.Outcome.next.inj hown
    have hkeys := congrArg State.se heq
    exact hkeys
  · exact (hother k).trans (congrArg (keyed k) ht)
  · exact (hother k).trans (congrArg (keyed k) hf)

end Sys2Proof.Proofs.CommandsAndKeys
end
